-- ==== Sys2Proof/Word.lean ====
section
/-! DEFINITION. Word.lean: the widths the spec names (R11, R12). A 1-bit register is a Bool, 1 being true. -/

namespace Sys2Proof

/-- An 8-bit value: `tx_buff`, `rx_buff`, the two shift registers. -/
abbrev Byte := BitVec 8

/-- A 4-bit counter: the two data-bit counters and the oversample counter (R28, R34, R37). -/
abbrev Nibble := BitVec 4

/-- The baud divisor input (R39). -/
abbrev Divisor := BitVec 16

end Sys2Proof
end

