-- ==== Sys2Proof/Config.lean ====
section
/-! DEFINITION. Config.lean: the parameters of 00_scope.md R9, the two BaudTicks of 40_baudtick.md R106, and the free value `draw()` of R16. -/

namespace Sys2Proof

/-- The parameters of R9 that the source leaves open. They are fixed for a whole run (R88). -/
structure Config where
  /-- `TX_PARITY`: the TxEngine has the PARITY state and the parity latch. -/
  txParity : Bool
  /-- `RX_PARITY`: the RxEngine has the PARITY state. -/
  rxParity : Bool
  /-- `RX_EDGE_QUALIFIED`: start detection needs `rx_cnt` non-zero (92 D7). -/
  rxEdgeQualified : Bool
  /-- `TX_CNT_W`, at least 16. -/
  txCntW : Nat
  /-- `RX_CNT_W`, at least 12. -/
  rxCntW : Nat
deriving DecidableEq, Repr

/-- `UartCore`'s parameters: both engines share one `PARITY` (R10); counter widths at their default. -/
def Config.uartCore (parity edgeQualified : Bool) : Config :=
  { txParity := parity, rxParity := parity, rxEdgeQualified := edgeQualified, txCntW := 16, rxCntW := 16 }

/-- The defaults of R9. -/
def Config.standard : Config := Config.uartCore true true

/-- The parameters R9 fixes. -/
def Config.dataBits : Nat := 8
def Config.stopBits : Nat := 1
def Config.oversampling : Nat := 16
def Config.sampleTicks : List Nat := [7, 8, 9]
def Config.voteTick : Nat := 15

/-- Which of the two BaudTicks (R106). -/
inductive BaudInst where
  | tx
  | rx
deriving DecidableEq, Repr

/-- FREE VALUE (log 6). The pulse of a BaudTick whose target is 0: "any value, chosen afresh each cycle" (R104). Nothing can
evaluate it; `k` is the model's draw counter. -/
opaque Config.tickDraw (n : BaudInst) (k : Nat) : Bool

end Sys2Proof
end

