-- ==== Sys2Proof/Syntax.lean ====
section
/-! DEFINITION. Syntax.lean: one constructor per row of spec/opcode_table.json. An instruction is one transition rule of an engine or of a BaudTick (00_scope.md section 1; 92 D1). -/

namespace Sys2Proof

/-- The transition rules. TX and RX rows have no operand: the rule's inputs are registers and pins. A BAUD row is one rule of
one of the two BaudTicks; which one is not encoded, it is the BaudTick whose selector word was read (R80, R106). -/
inductive Instr where
  | txWaitIdle                     -- R121
  | txWaitAccept                   -- R122
  | txDataEnd                      -- R123
  | txDataShift                    -- R124
  | txDataHold                     -- R125
  | txParityEmit                   -- R126
  | txParityHold                   -- R127
  | txStopEmit                     -- R128
  | txStopHold                     -- R129
  | rxWaitIdle                     -- R152
  | rxWaitDetect                   -- R153
  | rxDataDone                     -- R154
  | rxOvsHold                      -- R155
  | rxOvsCount                     -- R156
  | rxOvsSample                    -- R157
  | rxStartConfirm                 -- R158
  | rxStartReject                  -- R159
  | rxDataBit                      -- R160
  | rxParityCheck                  -- R161
  | rxStopEnd                      -- R162
  | rxIllegal001                   -- R163
  | rxIllegal01X                   -- R163
  | baudRestart (n : BaudInst)     -- R102
  | baudWrap (n : BaudInst)        -- R103
  | baudDraw (n : BaudInst)        -- R104
  | baudInc (n : BaudInst)         -- R105
deriving DecidableEq, Repr

end Sys2Proof
end

