-- ==== Sys2Proof/WellFormed.lean ====
section
/-! DEFINITION. WellFormed.lean: which parameters R9 allows, and which rules an engine with given parameters has. -/

namespace Sys2Proof

/-- R9: "Nat, at least 16" and "Nat, at least 12" for the counter widths. -/
def Config.wf (c : Config) : Bool := decide (16 ≤ c.txCntW) && decide (12 ≤ c.rxCntW)

/-- R10: `UartCore` instantiates its engines with `TX_PARITY = RX_PARITY`. -/
def Config.matched (c : Config) : Bool := c.txParity == c.rxParity

/-- The rules an engine with these parameters has: the PARITY rows "only when `TX_PARITY`" (R126, R127) or "only when
`RX_PARITY`" (R161); the reserved-code rows are illegal in every variant (R85). -/
def Instr.wf (c : Config) (i : Instr) : Bool :=
  match i with
  | .txWaitIdle => true
  | .txWaitAccept => true
  | .txDataEnd => true
  | .txDataShift => true
  | .txDataHold => true
  | .txParityEmit => c.txParity
  | .txParityHold => c.txParity
  | .txStopEmit => true
  | .txStopHold => true
  | .rxWaitIdle => true
  | .rxWaitDetect => true
  | .rxDataDone => true
  | .rxOvsHold => true
  | .rxOvsCount => true
  | .rxOvsSample => true
  | .rxStartConfirm => true
  | .rxStartReject => true
  | .rxDataBit => true
  | .rxParityCheck => c.rxParity
  | .rxStopEnd => true
  | .rxIllegal001 => false
  | .rxIllegal01X => false
  | .baudRestart _ => true
  | .baudWrap _ => true
  | .baudDraw _ => true
  | .baudInc _ => true

end Sys2Proof
end

