-- ==== Sys2Proof/Decode.lean ====
section
/-! DEFINITION. Decode.lean: the selector tables of 30_encoding.md R81 to R83, the decoder over them, and the encoder. -/

namespace Sys2Proof

/-- The bits of a selector word, bit 0 first (R12). A list, so that a row whose mask leaves a bit out never looks at it: a free
tick draw (R104) in such a bit does not stop the decoding. -/
def wordBits : Nat → Nat → List Bool
  | 0, _ => []
  | n + 1, w => (w % 2 == 1) :: wordBits n (w / 2)

/-- The word whose bits are given, bit 0 first. -/
def bitsWord : List Bool → Nat
  | [] => 0
  | b :: bs => b.toNat + 2 * bitsWord bs

/-- A row of an opcode map: the word w matches when `w & mask == match` (R81). -/
structure Row where
  mask  : Nat
  value : Nat
  instr : Instr
deriving DecidableEq, Repr

/-- `w & mask == value`, bit by bit, looking only at the bits the mask selects. -/
def maskedEq : Nat → Nat → List Bool → Bool
  | _, _, [] => true
  | mask, value, b :: bs => (mask % 2 == 0 || b == (value % 2 == 1)) && maskedEq (mask / 2) (value / 2) bs

/-- The three formats of selector word; each BaudTick has a word of its own (R80, R84). -/
inductive Table where
  | txsel
  | rxsel
  | bsel (n : BaudInst)
deriving DecidableEq, Repr

/-- Widths: R78, R79, R80. -/
def Table.width : Table → Nat
  | .txsel => 5
  | .rxsel => 9
  | .bsel _ => 3

/-- R81. -/
def txRows : List Row :=
  [ ⟨0x07, 0x00, .txWaitIdle⟩,
    ⟨0x07, 0x04, .txWaitAccept⟩,
    ⟨0x13, 0x11, .txDataEnd⟩,
    ⟨0x1B, 0x09, .txDataShift⟩,
    ⟨0x1B, 0x01, .txDataHold⟩,
    ⟨0x0B, 0x0A, .txParityEmit⟩,
    ⟨0x0B, 0x02, .txParityHold⟩,
    ⟨0x0B, 0x0B, .txStopEmit⟩,
    ⟨0x0B, 0x03, .txStopHold⟩ ]

/-- R82. -/
def rxRows : List Row :=
  [ ⟨0x017, 0x000, .rxWaitIdle⟩,
    ⟨0x017, 0x010, .rxWaitDetect⟩,
    ⟨0x087, 0x085, .rxDataDone⟩,
    ⟨0x08C, 0x004, .rxOvsHold⟩,
    ⟨0x0EC, 0x00C, .rxOvsCount⟩,
    ⟨0x0EC, 0x02C, .rxOvsSample⟩,
    ⟨0x1EF, 0x04C, .rxStartConfirm⟩,
    ⟨0x1EF, 0x14C, .rxStartReject⟩,
    ⟨0x0EF, 0x04D, .rxDataBit⟩,
    ⟨0x0EF, 0x04E, .rxParityCheck⟩,
    ⟨0x0EF, 0x04F, .rxStopEnd⟩,
    ⟨0x007, 0x001, .rxIllegal001⟩,
    ⟨0x006, 0x002, .rxIllegal01X⟩ ]

/-- R83. -/
def baudRows (n : BaudInst) : List Row :=
  [ ⟨0x4, 0x4, .baudRestart n⟩,
    ⟨0x7, 0x2, .baudWrap n⟩,
    ⟨0x5, 0x1, .baudDraw n⟩,
    ⟨0x7, 0x0, .baudInc n⟩ ]

def Table.rows : Table → List Row
  | .txsel => txRows
  | .rxsel => rxRows
  | .bsel n => baudRows n

/-- Why a word is no instruction. -/
inductive DecodeReject where
  /-- The word matches no row of its table (R84). Raised by the decoder; safe. -/
  | noRow
  /-- The word does not have its table's width. Raised by the decoder; safe. -/
  | wrongWidth
deriving DecidableEq, Repr

/-- The row of the table that matches (R84: "finds the one matching row"). -/
def decodeBits (t : Table) (bits : List Bool) : Except DecodeReject Instr :=
  if bits.length = t.width then
    match t.rows.find? (fun r => maskedEq r.mask r.value bits) with
    | some r => .ok r.instr
    | none => .error .noRow
  else .error .wrongWidth

/-- Decoding a selector word given as a number. -/
def decode (t : Table) (w : Nat) : Except DecodeReject Instr :=
  if w < 2 ^ t.width then decodeBits t (wordBits t.width w) else .error .wrongWidth

/-- The table a rule's word belongs to. -/
def Instr.table : Instr → Table
  | .txWaitIdle | .txWaitAccept | .txDataEnd | .txDataShift | .txDataHold
  | .txParityEmit | .txParityHold | .txStopEmit | .txStopHold => .txsel
  | .rxWaitIdle | .rxWaitDetect | .rxDataDone | .rxOvsHold | .rxOvsCount | .rxOvsSample
  | .rxStartConfirm | .rxStartReject | .rxDataBit | .rxParityCheck | .rxStopEnd
  | .rxIllegal001 | .rxIllegal01X => .rxsel
  | .baudRestart n | .baudWrap n | .baudDraw n | .baudInc n => .bsel n

/-- The encoder: the word of a rule with every bit its mask leaves out 0 (the "match" column of R81 to R83). -/
def encode : Instr → Nat
  | .txWaitIdle => 0x00
  | .txWaitAccept => 0x04
  | .txDataEnd => 0x11
  | .txDataShift => 0x09
  | .txDataHold => 0x01
  | .txParityEmit => 0x0A
  | .txParityHold => 0x02
  | .txStopEmit => 0x0B
  | .txStopHold => 0x03
  | .rxWaitIdle => 0x000
  | .rxWaitDetect => 0x010
  | .rxDataDone => 0x085
  | .rxOvsHold => 0x004
  | .rxOvsCount => 0x00C
  | .rxOvsSample => 0x02C
  | .rxStartConfirm => 0x04C
  | .rxStartReject => 0x14C
  | .rxDataBit => 0x04D
  | .rxParityCheck => 0x04E
  | .rxStopEnd => 0x04F
  | .rxIllegal001 => 0x001
  | .rxIllegal01X => 0x002
  | .baudRestart _ => 0x4
  | .baudWrap _ => 0x2
  | .baudDraw _ => 0x1
  | .baudInc _ => 0x0

/-- The bits a rule's row fixes (the "mask" column of R81 to R83). -/
def Instr.mask : Instr → Nat
  | .txWaitIdle => 0x07
  | .txWaitAccept => 0x07
  | .txDataEnd => 0x13
  | .txDataShift => 0x1B
  | .txDataHold => 0x1B
  | .txParityEmit => 0x0B
  | .txParityHold => 0x0B
  | .txStopEmit => 0x0B
  | .txStopHold => 0x0B
  | .rxWaitIdle => 0x017
  | .rxWaitDetect => 0x017
  | .rxDataDone => 0x087
  | .rxOvsHold => 0x08C
  | .rxOvsCount => 0x0EC
  | .rxOvsSample => 0x0EC
  | .rxStartConfirm => 0x1EF
  | .rxStartReject => 0x1EF
  | .rxDataBit => 0x0EF
  | .rxParityCheck => 0x0EF
  | .rxStopEnd => 0x0EF
  | .rxIllegal001 => 0x007
  | .rxIllegal01X => 0x006
  | .baudRestart _ => 0x4
  | .baudWrap _ => 0x7
  | .baudDraw _ => 0x5
  | .baudInc _ => 0x7

/-- DESIGN CHOICE (log 7). Which table a table word of `nbits` bits is read in: the three tables share numbers, so the width
tells them apart: 3 bits BSEL (of the TX BaudTick), 5 bits (8 in whole bytes) TXSEL, 9 bits (16 in whole bytes) RXSEL. -/
def tableOfWidth (nbits : Nat) : Option Table :=
  if nbits = 3 then some (.bsel .tx)
  else if nbits = 5 ∨ nbits = 8 then some .txsel
  else if nbits = 9 ∨ nbits = 16 then some .rxsel
  else none

/-- The instruction the decoder reads from a table word. -/
def decodeTableWord (nbits w : Nat) : Option Instr :=
  match tableOfWidth nbits with
  | some t => (decode t w).toOption
  | none => none

end Sys2Proof
end

