-- ==== Sys2Proof/Machine/State.lean ====
section
/-! DEFINITION. Machine/State.lean: the registers of 10_state.md, the input pins of 20_memory.md R51, the host's pending commands, the reasons a step can stop, and the reset state of 70_reset_and_hazards.md R240. -/

namespace Sys2Proof.Machine

/-- `tx_state` (R23); codes in R76, where every code is a state. -/
inductive TxState where
  | wait
  | data
  | parity
  | stop
deriving DecidableEq, Repr

/-- `rx_state` (R31), with the three reserved codes the 3-bit register could hold (R77, R85). -/
inductive RxState where
  | wait
  | start
  | data
  | parity
  | stop
  | reserved001
  | reserved010
  | reserved011
deriving DecidableEq, Repr

/-- The TxEngine's registers, which it alone owns (R21, R23 to R30), with its BaudTick's counter. -/
structure TxRegs where
  state  : TxState
  /-- `tx_cnt`, TX_CNT_W bits (R25; log 9). -/
  cnt    : Nat
  shift  : Byte
  par    : Bool
  bitcnt : Nibble
  /-- `tx_q`, which drives `tx`. -/
  q      : Bool
  /-- `tx_rdy_q`, which drives `tx_rdy`. -/
  rdyQ   : Bool
deriving DecidableEq, Repr

/-- The RxEngine's registers, which it alone owns (R21, R31 to R38), with its BaudTick's counter. -/
structure RxRegs where
  state  : RxState
  /-- `rx_cnt`, RX_CNT_W bits (R33; log 9). -/
  cnt    : Nat
  os     : Nibble
  win    : BitVec 3
  acc    : Byte
  bitcnt : Nibble
  /-- `rx_buff_q`, which drives `rx_buff`. -/
  buffQ  : Byte
  /-- `rx_rdy_q`, which drives `rx_rdy`. -/
  rdyQ   : Bool
  /-- `rx_error_q`, which drives `rx_error`. -/
  errorQ : Bool
deriving DecidableEq, Repr

/-- What drives `rx` (R54, R89 LINE): the wire from `tx`, or a level from outside. -/
inductive Line where
  | loop
  | ext (level : Bool)
deriving DecidableEq, Repr

/-- The input pins during the current cycle (R51, R53). -/
structure Pins where
  divisor : Divisor
  txBuff  : Byte
  txReq   : Bool
  line    : Line
deriving DecidableEq, Repr

/-- The outputs an UNTIL may wait for (R89). -/
inductive OutSel where
  | txRdy
  | rxRdy
deriving DecidableEq, Repr

/-- The host's commands (R89), after FRAME, SEND, RECV and BREAKLINE are expanded, and the raw input words of R91. -/
inductive Cmd where
  /-- DIV: 0 cycles. -/
  | div (n : Divisor)
  /-- LINE: 0 cycles. -/
  | line (l : Line)
  /-- REQ: 1 cycle with `tx_req = 1`. -/
  | req (b : Byte)
  /-- IDLE: n cycles with `tx_req = 0`. -/
  | idle (n : Nat)
  /-- UNTIL with an optional MAX. -/
  | untilOut (o : OutSel) (max : Option Nat)
  /-- A pair `(count, IN)` of R91: the packed input word (R86), for n cycles. -/
  | input (n : Nat) (w : BitVec 26)
deriving DecidableEq, Repr

/-- The core's registers, its parameters, its input pins, and the host's pending commands. -/
structure State where
  /-- The parameters of R9; no step changes them (R88; log 2). -/
  cfg     : Config
  tx      : TxRegs
  rx      : RxRegs
  /-- The levels on the input pins (log 3). -/
  pins    : Pins
  /-- The host's pending commands; with none left the pins hold their levels (log 3). -/
  script  : List Cmd
  /-- The MODEL's own field (log 6): which free tick draws this cycle takes. -/
  drawCtr : Nat
deriving DecidableEq, Repr

/-- The spec's model faults (R216): register values the hardware cannot hold. -/
inductive Fault where
  /-- Raised by the meanings of TX.PARITY.EMIT and TX.PARITY.HOLD when TX_PARITY is false (R130). Safe: no rule reaches it. -/
  | txParityStateWithoutParity
  /-- Raised by the meanings of RX.ILLEGAL.001 and RX.ILLEGAL.01X, by RX.PARITY.CHECK when RX_PARITY is false, and by the
  RX.OVS rules in state PARITY when RX_PARITY is false (R163). Safe: no rule reaches it. -/
  | rxIllegalState
  /-- Raised by a cycle whose selector word matches no row (R84). Safe: no state gives such a word. -/
  | unreachableSelector
deriving DecidableEq, Repr

/-- Reasons the model has no next state. -/
inductive Refusal where
  /-- Raised by an arm of exec that has no meaning yet. Safe. -/
  | notModelled (mnemonic : String)
  /-- Raised by a step whose UNTIL has used its MAX cycles: "the program stops with outcome TIMEOUT" (R89; log 13). Safe. -/
  | stimulusTimeout
deriving DecidableEq, Repr

/-- What a meaning, a cycle and a step answer. -/
abbrev Result := Host.Outcome State Fault Refusal

/-- One value for each register whose reset value is a draw (R43, R240). -/
structure ResetDraws where
  txCnt   : Nat
  txShift : Byte
  txPar   : Bool
  rxCnt   : Nat
  rxWin   : BitVec 3
  rxAcc   : Byte
  rxBuff  : Byte
deriving DecidableEq, Repr

/-- Every draw 0, the values of 95_test_vectors.md's vectors (log 4). -/
def ResetDraws.zero : ResetDraws :=
  { txCnt := 0, txShift := 0, txPar := false, rxCnt := 0, rxWin := 0, rxAcc := 0, rxBuff := 0 }

/-- The reset state of R240 for given parameters and draws; the pins as R89 and R90 have them before the first directive. -/
def State.resetWith (c : Config) (d : ResetDraws) : State :=
  { cfg := c
    tx :=
      { state := .wait, cnt := d.txCnt % 2 ^ c.txCntW, shift := d.txShift, par := d.txPar, bitcnt := 0
        q := true, rdyQ := true }
    rx :=
      { state := .wait, cnt := d.rxCnt % 2 ^ c.rxCntW, os := 0, win := d.rxWin, acc := d.rxAcc, bitcnt := 0
        buffQ := d.rxBuff, rdyQ := false, errorQ := false }
    pins := { divisor := 0, txBuff := 0, txReq := false, line := .loop }
    script := []
    drawCtr := 0 }

/-- The machine right after reset: the default parameters, every draw 0 (log 2, 4, 5). -/
def State.reset : State := State.resetWith Config.standard ResetDraws.zero

end Sys2Proof.Machine
end

