-- ==== Sys2Proof/Machine/Flags.lean ====
section
/-! DEFINITION. Machine/Flags.lean: the reductions of 00_scope.md R13 and R14 and the two ways `rx_error_q` is written (42_rx_engine.md R161, R162). -/

namespace Sys2Proof.Machine

/-- R13: the XOR of the eight bits. -/
def xor8 (b : Byte) : Bool :=
  b.getLsbD 0 ^^ b.getLsbD 1 ^^ b.getLsbD 2 ^^ b.getLsbD 3 ^^
    b.getLsbD 4 ^^ b.getLsbD 5 ^^ b.getLsbD 6 ^^ b.getLsbD 7

/-- R14. -/
def maj3 (s0 s1 s2 : Bool) : Bool := (s0 && s1) || (s1 && s2) || (s0 && s2)

/-- R150: the MajorityVoteSampler's output for a sample window. -/
def winVote (w : BitVec 3) : Bool := maj3 (w.getLsbD 0) (w.getLsbD 1) (w.getLsbD 2)

/-- R161: `rx_error_q <- xor8(rx_acc) ^ v`, an assignment. -/
def parityError (acc : Byte) (v : Bool) : Bool := xor8 acc ^^ v

/-- R162: `rx_error_q <- (v == 0 ? 1 : 0) | rx_error_q`. -/
def stopError (v : Bool) (prior : Bool) : Bool := !v || prior

end Sys2Proof.Machine
end

