-- ==== Sys2Proof/Machine/Ops.lean ====
section
/-! DEFINITION. Machine/Ops.lean: the named operations over registers and pins, and the sequencing of outcomes. The core has no exception to take and none to return from (60_exceptions.md R210): a fault is the spec's own mark for a state the hardware cannot hold. -/

namespace Sys2Proof.Machine

/-- R76. -/
def TxState.code : TxState → BitVec 2
  | .wait => 0b00#2
  | .data => 0b01#2
  | .parity => 0b10#2
  | .stop => 0b11#2

/-- R76, read backwards. -/
def TxState.ofCode (c : BitVec 2) : TxState :=
  if c = 0b00#2 then .wait else if c = 0b01#2 then .data else if c = 0b10#2 then .parity else .stop

/-- R77. -/
def RxState.code : RxState → BitVec 3
  | .wait => 0b000#3
  | .reserved001 => 0b001#3
  | .reserved010 => 0b010#3
  | .reserved011 => 0b011#3
  | .start => 0b100#3
  | .data => 0b101#3
  | .parity => 0b110#3
  | .stop => 0b111#3

/-- R77, read backwards. -/
def RxState.ofCode (c : BitVec 3) : RxState :=
  if c = 0b000#3 then .wait else if c = 0b001#3 then .reserved001
  else if c = 0b010#3 then .reserved010 else if c = 0b011#3 then .reserved011
  else if c = 0b100#3 then .start else if c = 0b101#3 then .data
  else if c = 0b110#3 then .parity else .stop

/-- Run `k` on the next state, if there is one. -/
def andThen (o : Result) (k : State → Result) : Result :=
  match o with
  | .next s => k s
  | .fault r => .fault r
  | .refused r => .refused r

/-- The counter of a BaudTick (R106). -/
def State.cnt (n : BaudInst) (s : State) : Nat :=
  match n with
  | .tx => s.tx.cnt
  | .rx => s.rx.cnt

/-- The width of a BaudTick's counter (R100). -/
def State.cntW (n : BaudInst) (s : State) : Nat :=
  match n with
  | .tx => s.cfg.txCntW
  | .rx => s.cfg.rxCntW

/-- Write a BaudTick's counter. -/
def State.setCnt (n : BaudInst) (v : Nat) (s : State) : State :=
  match n with
  | .tx => { s with tx := { s.tx with cnt := v } }
  | .rx => { s with rx := { s.rx with cnt := v } }

/-- `(cnt + 1) mod 2^W` (R104, R105). -/
def incCnt (w c : Nat) : Nat := (c + 1) % 2 ^ w

/-- The level on `rx` this cycle; looped, it is `tx` of the same cycle, which is `tx_q` (R54). -/
def State.rxIn (s : State) : Bool :=
  match s.pins.line with
  | .loop => s.tx.q
  | .ext l => l

/-- `v >> 1` of the TX shift register: bit 7 filled with 0 (R73). -/
def shiftOut (b : Byte) : Byte := b >>> 1

/-- `{v, acc[7:1]}` = `(acc >> 1) | (v << 7)` (R74). -/
def shiftIn (v : Bool) (acc : Byte) : Byte := (acc >>> 1) ||| ((BitVec.ofBool v).setWidth 8 <<< 7)

/-- Replace bit k of a sample window. -/
def insertBit (w : BitVec 3) (k : Nat) (b : Bool) : BitVec 3 :=
  (w &&& ~~~(1#3 <<< k)) ||| ((BitVec.ofBool b).setWidth 3 <<< k)

/-- R157: `rx_win[rx_os - 7] <- rx`, which has a meaning for `rx_os` 7, 8 and 9 only (log 12). -/
def winSample (w : BitVec 3) (os : Nibble) (b : Bool) : BitVec 3 :=
  if 7 ≤ os.toNat ∧ os.toNat ≤ 9 then insertBit w (os.toNat - 7) b else w

/-- Change the TX registers. -/
def State.withTx (s : State) (r : TxRegs) : State := { s with tx := r }

/-- Change the RX registers. -/
def State.withRx (s : State) (r : RxRegs) : State := { s with rx := r }

/-- Put levels on the input pins, with no command pending (R192: a cycle's inputs). -/
def State.withPins (s : State) (p : Pins) : State := { s with pins := p, script := [] }

/-- The outputs (R51). -/
structure Outputs where
  tx      : Bool
  txRdy   : Bool
  rxBuff  : Byte
  rxRdy   : Bool
  rxError : Bool
deriving DecidableEq, Repr

/-- R52: every output is the value of a register. -/
def State.outputs (s : State) : Outputs :=
  { tx := s.tx.q, txRdy := s.tx.rdyQ, rxBuff := s.rx.buffQ, rxRdy := s.rx.rdyQ, rxError := s.rx.errorQ }

/-- R87: `OUT[0] = tx`, `OUT[1] = tx_rdy`, `OUT[9:2] = rx_buff`, `OUT[10] = rx_rdy`, `OUT[11] = rx_error`. -/
def Outputs.word (o : Outputs) : BitVec 12 :=
  BitVec.ofBool o.rxError ++ BitVec.ofBool o.rxRdy ++ o.rxBuff ++ BitVec.ofBool o.txRdy ++ BitVec.ofBool o.tx

/-- R86: `IN[15:0] = divisor`, `IN[23:16] = tx_buff`, `IN[24] = tx_req`, `IN[25] = rx`. -/
def State.inWord (s : State) : BitVec 26 :=
  BitVec.ofBool s.rxIn ++ BitVec.ofBool s.pins.txReq ++ s.pins.txBuff ++ s.pins.divisor

/-- The pins an input word puts up (R86). -/
def Pins.ofWord (w : BitVec 26) : Pins :=
  { divisor := w.extractLsb' 0 16, txBuff := w.extractLsb' 16 8, txReq := w.getLsbD 24, line := .ext (w.getLsbD 25) }

/-- R70, R71: the bits of a frame in time order: start 0, the data bits LSB first, the parity bit when there is one, stop 1. -/
def frameBits (parity : Bool) (b : Byte) : List Bool :=
  false :: (wordBits 8 b.toNat ++ (if parity then [xor8 b] else []) ++ [true])

end Sys2Proof.Machine
end

