-- ==== Sys2Proof/Machine/Operands.lean ====
section
/-! DEFINITION. Machine/Operands.lean: the combinational values of a cycle (43_uartcore.md R191, pass 1) and the selector words made of them (30_encoding.md R78 to R80). -/

namespace Sys2Proof.Machine

/-- R75, R106: the target is `divisor` for TX and `divisor >> 4` for RX. -/
def State.target (n : BaudInst) (s : State) : Nat :=
  match n with
  | .tx => s.pins.divisor.toNat
  | .rx => (s.pins.divisor >>> 4).toNat

/-- R101: `cnt + 1 == T` compared as integers; R104: a free draw when `T = 0`. -/
def State.tick (n : BaudInst) (s : State) : Bool :=
  if s.target n = 0 then Config.tickDraw n s.drawCtr else s.cnt n + 1 == s.target n

/-- R122: a request is accepted. -/
def State.accept (s : State) : Bool := s.tx.state == .wait && s.pins.txReq

/-- R151: `qual = (rx_cnt != 0) | ~RX_EDGE_QUALIFIED`. -/
def State.qual (s : State) : Bool := s.rx.cnt != 0 || !s.cfg.rxEdgeQualified

/-- R151: `edge = (rx == 0) & qual`. -/
def State.edge (s : State) : Bool := !s.rxIn && s.qual

/-- R153: a start is detected. -/
def State.detect (s : State) : Bool := s.rx.state == .wait && s.edge

/-- R106: the restart input of a BaudTick. -/
def State.restart (n : BaudInst) (s : State) : Bool :=
  match n with
  | .tx => s.accept
  | .rx => s.detect

/-- R150: the majority vote over the sample window. -/
def State.vote (s : State) : Bool := winVote s.rx.win

/-- R79: `rx_os` is 7, 8 or 9. -/
def State.samp (s : State) : Bool := s.rx.os == 7#4 || s.rx.os == 8#4 || s.rx.os == 9#4

/-- R79: `rx_os == 15`. -/
def State.last (s : State) : Bool := s.rx.os == 15#4

/-- R79: `(rx_state == DATA) & rx_bitcnt[3]`. -/
def State.ddone (s : State) : Bool := s.rx.state == .data && s.rx.bitcnt.getLsbD 3

/-- R163: PARITY held by an engine without RX_PARITY. -/
def State.rxParityIllegal (s : State) : Bool := s.rx.state == .parity && !s.cfg.rxParity

/-- R78: `TXSEL`, bit 0 first: st (2), req, tick, full. -/
def State.txSel (s : State) : List Bool :=
  [s.tx.state.code.getLsbD 0, s.tx.state.code.getLsbD 1, s.pins.txReq, s.tick .tx, s.tx.bitcnt.getLsbD 3]

/-- R79: `RXSEL`, bit 0 first: st (3), tick, edge, samp, last, ddone, vote. -/
def State.rxSel (s : State) : List Bool :=
  [s.rx.state.code.getLsbD 0, s.rx.state.code.getLsbD 1, s.rx.state.code.getLsbD 2, s.tick .rx, s.edge, s.samp, s.last,
    s.ddone, s.vote]

/-- R80: `hit`: `T != 0` and `cnt + 1 == T`, compared as integers. -/
def State.hit (n : BaudInst) (s : State) : Bool := s.target n != 0 && s.cnt n + 1 == s.target n

/-- R80: `BSEL`, bit 0 first: zero, hit, restart. -/
def State.bSel (n : BaudInst) (s : State) : List Bool := [s.target n == 0, s.hit n, s.restart n]

end Sys2Proof.Machine
end

