-- ==== Sys2Proof/Machine/BaudTick.lean ====
section
/-! DEFINITION. Machine/BaudTick.lean: the rules of a BaudTick, 40_baudtick.md R102 to R105. A rule writes its counter and nothing else; the pulse it goes with is State.tick. -/

namespace Sys2Proof.Machine

/-- BAUD.RESTART (R102): "The restart overrides both the increment and the reset-on-tick". -/
def execBaudRestart (n : BaudInst) (s : State) : Result := .next (s.setCnt n 0)

/-- BAUD.WRAP (R103). -/
def execBaudWrap (n : BaudInst) (s : State) : Result := .next (s.setCnt n 0)

/-- BAUD.DRAW (R104): 0 when this cycle's drawn pulse is 1, the increment otherwise. -/
def execBaudDraw (n : BaudInst) (s : State) : Result :=
  .next (s.setCnt n (if Config.tickDraw n s.drawCtr then 0 else incCnt (s.cntW n) (s.cnt n)))

/-- BAUD.INC (R105). -/
def execBaudInc (n : BaudInst) (s : State) : Result := .next (s.setCnt n (incCnt (s.cntW n) (s.cnt n)))

end Sys2Proof.Machine
end

