-- ==== Sys2Proof/Machine/RxEngine.lean ====
section
/-! DEFINITION. Machine/RxEngine.lean: the rules of the receiver, 42_rx_engine.md R152 to R163. A meaning is the rule's pseudocode; the condition that selects the rule is its row of R82 (log 12). -/

namespace Sys2Proof.Machine

/-- R163, as R155 to R157 name it: "rule R163 applies instead when the state is PARITY without `RX_PARITY`". -/
def rxLegal (s : State) (r : Result) : Result :=
  if s.rxParityIllegal then .fault .rxIllegalState else r

/-- RX.WAIT.IDLE (R152). -/
def execRxWaitIdle (s : State) : Result := .next (s.withRx { s.rx with rdyQ := false })

/-- RX.WAIT.DETECT (R153). The write of `rx_cnt` is BAUD.RESTART's. -/
def execRxWaitDetect (s : State) : Result :=
  .next (s.withRx
    { s.rx with rdyQ := false, win := insertBit s.rx.win 0 s.rxIn, cnt := 0, os := 0, state := .start })

/-- RX.DATA.DONE (R154). -/
def execRxDataDone (s : State) : Result :=
  .next (s.withRx { s.rx with state := if s.cfg.rxParity then .parity else .stop })

/-- RX.OVS.HOLD (R155). -/
def execRxOvsHold (s : State) : Result := rxLegal s (.next s)

/-- RX.OVS.COUNT (R156). -/
def execRxOvsCount (s : State) : Result := rxLegal s (.next (s.withRx { s.rx with os := s.rx.os + 1 }))

/-- RX.OVS.SAMPLE (R157): the raw `rx` of this cycle. -/
def execRxOvsSample (s : State) : Result :=
  rxLegal s (.next (s.withRx { s.rx with win := winSample s.rx.win s.rx.os s.rxIn, os := s.rx.os + 1 }))

/-- RX.START.CONFIRM (R158). -/
def execRxStartConfirm (s : State) : Result := .next (s.withRx { s.rx with os := 0, state := .data })

/-- RX.START.REJECT (R159): "abort silently back to WAIT with no error flagged". -/
def execRxStartReject (s : State) : Result := .next (s.withRx { s.rx with os := 0, state := .wait })

/-- RX.DATA.BIT (R160). -/
def execRxDataBit (s : State) : Result :=
  .next (s.withRx { s.rx with acc := shiftIn s.vote s.rx.acc, bitcnt := s.rx.bitcnt + 1, os := 0 })

/-- RX.PARITY.CHECK (R161): `rx_error_q` is assigned, the byte is delivered on a mismatch too. -/
def execRxParityCheck (s : State) : Result :=
  if s.cfg.rxParity then
    .next (s.withRx
      { s.rx with errorQ := parityError s.rx.acc s.vote, buffQ := s.rx.acc, os := 0, state := .stop })
  else .fault .rxIllegalState

/-- RX.STOP.END (R162): `rx_rdy` pulses whether or not an error is set; without parity the byte is delivered here. -/
def execRxStopEnd (s : State) : Result :=
  .next (s.withRx
    { s.rx with
      errorQ := stopError s.vote s.rx.errorQ
      buffQ := if s.cfg.rxParity then s.rx.buffQ else s.rx.acc
      rdyQ := true
      bitcnt := 0
      os := 0
      state := .wait })

/-- RX.ILLEGAL.001 (R163): `rx_state` holds the reserved code 001. -/
def execRxIllegal001 (_s : State) : Result := .fault .rxIllegalState

/-- RX.ILLEGAL.01X (R163): `rx_state` holds a reserved code 010 or 011. -/
def execRxIllegal01X (_s : State) : Result := .fault .rxIllegalState

end Sys2Proof.Machine
end

