-- ==== Sys2Proof/Machine/TxEngine.lean ====
section
/-! DEFINITION. Machine/TxEngine.lean: the rules of the transmitter, 41_tx_engine.md R121 to R130. A meaning is the rule's pseudocode; the condition that selects the rule is its row of R81 (log 12). -/

namespace Sys2Proof.Machine

/-- R130: a rule of state PARITY in an engine without TX_PARITY. -/
def txParityOnly (s : State) (r : Result) : Result :=
  if s.cfg.txParity then r else .fault .txParityStateWithoutParity

/-- TX.WAIT.IDLE (R121). -/
def execTxWaitIdle (s : State) : Result := .next (s.withTx { s.tx with q := true, rdyQ := true })

/-- TX.WAIT.ACCEPT (R122). The write of `tx_cnt` is BAUD.RESTART's. -/
def execTxWaitAccept (s : State) : Result :=
  .next (s.withTx
    { s.tx with
      shift := s.pins.txBuff
      par := if s.cfg.txParity then xor8 s.pins.txBuff else s.tx.par
      q := false
      cnt := 0
      rdyQ := false
      state := .data })

/-- TX.DATA.END (R123). -/
def execTxDataEnd (s : State) : Result :=
  .next (s.withTx { s.tx with state := if s.cfg.txParity then .parity else .stop })

/-- TX.DATA.SHIFT (R124). -/
def execTxDataShift (s : State) : Result :=
  .next (s.withTx
    { s.tx with q := s.tx.shift.getLsbD 0, shift := shiftOut s.tx.shift, bitcnt := s.tx.bitcnt + 1 })

/-- TX.DATA.HOLD (R125): "no TxEngine register other than `tx_cnt` changes". -/
def execTxDataHold (s : State) : Result := .next s

/-- TX.PARITY.EMIT (R126). -/
def execTxParityEmit (s : State) : Result :=
  txParityOnly s (.next (s.withTx { s.tx with q := s.tx.par, state := .stop }))

/-- TX.PARITY.HOLD (R127). -/
def execTxParityHold (s : State) : Result := txParityOnly s (.next s)

/-- TX.STOP.EMIT (R128). -/
def execTxStopEmit (s : State) : Result :=
  .next (s.withTx { s.tx with q := true, bitcnt := 0, state := .wait })

/-- TX.STOP.HOLD (R129). -/
def execTxStopHold (s : State) : Result := .next s

end Sys2Proof.Machine
end

