-- ==== Sys2Proof/Machine/Dispatch.lean ====
section
/-! DEFINITION. Machine/Dispatch.lean: one arm per rule. -/

namespace Sys2Proof.Machine

def exec (i : Instr) (s : State) : Host.Outcome State Fault Refusal :=
  match i with
  | .txWaitIdle => Sys2Proof.Machine.execTxWaitIdle s
  | .txWaitAccept => Sys2Proof.Machine.execTxWaitAccept s
  | .txDataEnd => Sys2Proof.Machine.execTxDataEnd s
  | .txDataShift => Sys2Proof.Machine.execTxDataShift s
  | .txDataHold => Sys2Proof.Machine.execTxDataHold s
  | .txParityEmit => Sys2Proof.Machine.execTxParityEmit s
  | .txParityHold => Sys2Proof.Machine.execTxParityHold s
  | .txStopEmit => Sys2Proof.Machine.execTxStopEmit s
  | .txStopHold => Sys2Proof.Machine.execTxStopHold s
  | .rxWaitIdle => Sys2Proof.Machine.execRxWaitIdle s
  | .rxWaitDetect => Sys2Proof.Machine.execRxWaitDetect s
  | .rxDataDone => Sys2Proof.Machine.execRxDataDone s
  | .rxOvsHold => Sys2Proof.Machine.execRxOvsHold s
  | .rxOvsCount => Sys2Proof.Machine.execRxOvsCount s
  | .rxOvsSample => Sys2Proof.Machine.execRxOvsSample s
  | .rxStartConfirm => Sys2Proof.Machine.execRxStartConfirm s
  | .rxStartReject => Sys2Proof.Machine.execRxStartReject s
  | .rxDataBit => Sys2Proof.Machine.execRxDataBit s
  | .rxParityCheck => Sys2Proof.Machine.execRxParityCheck s
  | .rxStopEnd => Sys2Proof.Machine.execRxStopEnd s
  | .rxIllegal001 => Sys2Proof.Machine.execRxIllegal001 s
  | .rxIllegal01X => Sys2Proof.Machine.execRxIllegal01X s
  | .baudRestart n => Sys2Proof.Machine.execBaudRestart n s
  | .baudWrap n => Sys2Proof.Machine.execBaudWrap n s
  | .baudDraw n => Sys2Proof.Machine.execBaudDraw n s
  | .baudInc n => Sys2Proof.Machine.execBaudInc n s

end Sys2Proof.Machine
end

