-- ==== Sys2Proof/Machine/Stimulus.lean ====
section
/-! DEFINITION. Machine/Stimulus.lean: the host's stimulus notation, 30_encoding.md R89 to R91: directives, their expansion to commands, and how pending commands drive the pins cycle by cycle. -/

namespace Sys2Proof.Machine

/-- The directives of R89 and the pseudo-directives of R90. -/
inductive Directive where
  | div (n : Divisor)
  | lineLoop
  | lineExt (level : Bool)
  | req (b : Byte)
  | idle (n : Nat)
  | untilOut (o : OutSel) (max : Option Nat)
  | frame (b : Byte) (k : Nat) (par : Option Bool) (stop : Bool)
  | send (b : Byte)
  | recv
  | breakLine (k : Nat)
deriving DecidableEq, Repr

/-- Hold the line at each level for k cycles. -/
def holdBits (k : Nat) : List Bool → List Cmd
  | [] => []
  | l :: ls => .line (.ext l) :: .idle k :: holdBits k ls

/-- The bits FRAME drives: "start 0, byte LSB first, then parity p (default xor8(byte), present only when PARITY=1), then stop
s". -/
def frameLevels (parity : Bool) (b : Byte) (par : Option Bool) (stop : Bool) : List Bool :=
  false :: (wordBits 8 b.toNat ++ (if parity then [par.getD (xor8 b)] else []) ++ [stop])

/-- The expansions of R90, and FRAME as R89 words it: each bit k cycles, "then rx = 1". -/
def Directive.expand (parity : Bool) : Directive → List Cmd
  | .div n => [.div n]
  | .lineLoop => [.line .loop]
  | .lineExt l => [.line (.ext l)]
  | .req b => [.req b]
  | .idle n => [.idle n]
  | .untilOut o m => [.untilOut o m]
  | .frame b k par stop => holdBits k (frameLevels parity b par stop) ++ [.line (.ext true)]
  | .send b => [.untilOut .txRdy none, .req b]
  | .recv => [.untilOut .rxRdy none]
  | .breakLine k => [.line (.ext false), .idle k, .line (.ext true)]

/-- A program: its `.core` header and its directives (R89). -/
structure Program where
  parity : Bool
  edgeQ  : Bool
  body   : List Directive
deriving DecidableEq, Repr

/-- R89: FRAME is for an "EXT line only". `ext` says whether `rx` is driven from outside so far. -/
def Directive.wfList : Bool → List Directive → Bool
  | _, [] => true
  | _, .lineLoop :: ds => wfList false ds
  | _, .lineExt _ :: ds => wfList true ds
  | _, .breakLine _ :: ds => wfList true ds
  | ext, .frame _ _ _ _ :: ds => ext && wfList ext ds
  | ext, _ :: ds => wfList ext ds

/-- A well-formed program; `LINE LOOP` is the default (R89). -/
def Program.wf (p : Program) : Bool := Directive.wfList false p.body

/-- The commands of a program. -/
def Program.commands (p : Program) : List Cmd := p.body.flatMap (Directive.expand p.parity)

/-- R90: "The run begins at cycle 0 in the reset state". -/
def Program.load (p : Program) (d : ResetDraws) : State :=
  { State.resetWith (Config.uartCore p.parity p.edgeQ) d with script := p.commands }

/-- R91: a program as its run-length list of input words. -/
def State.loadWords (c : Config) (d : ResetDraws) (ws : List (Nat × BitVec 26)) : State :=
  { State.resetWith c d with script := ws.map (fun p => .input p.1 p.2) }

/-- R90: outside a REQ, `tx_req` and `tx_buff` are 0. -/
def State.release (s : State) : State := { s with pins := { s.pins with txReq := false, txBuff := 0 } }

/-- The output an UNTIL waits for. -/
def State.out (s : State) : OutSel → Bool
  | .txRdy => s.tx.rdyQ
  | .rxRdy => s.rx.rdyQ

/-- Drive the pins for this cycle: take the commands that last 0 cycles up to the first that lasts one, and leave what remains
(R89, R90). With no command left the pins hold their levels (log 3). `none`: an UNTIL has used its MAX cycles (log 13). -/
def drive : List Cmd → State → Option State
  | [], s => some { s with script := [] }
  | .div n :: cs, s => drive cs { s with pins := { s.pins with divisor := n } }
  | .line l :: cs, s => drive cs { s with pins := { s.pins with line := l } }
  | .req b :: cs, s => some { s with pins := { s.pins with txReq := true, txBuff := b }, script := .idle 0 :: cs }
  | .idle 0 :: cs, s => drive cs s.release
  | .idle (n + 1) :: cs, s => some { s.release with script := .idle n :: cs }
  | .untilOut o m :: cs, s =>
    if s.out o then drive cs s.release
    else
      match m with
      | none => some { s.release with script := .untilOut o none :: cs }
      | some 0 => none
      | some (k + 1) => some { s.release with script := .untilOut o (some k) :: cs }
  | .input 0 _ :: cs, s => drive cs s
  | .input (n + 1) w :: cs, s => some { s with pins := Pins.ofWord w, script := .input n w :: cs }

/-- The pending commands take no further cycle: what is left is only commands of 0 cycles, among them an UNTIL whose output is 1
(R89: it ends "before the first cycle during which output <out> ... is 1"). -/
def exhausted : List Cmd → State → Bool
  | [], _ => true
  | .div _ :: cs, s => exhausted cs s
  | .line _ :: cs, s => exhausted cs s
  | .req _ :: _, _ => false
  | .idle 0 :: cs, s => exhausted cs s
  | .idle (_ + 1) :: _, _ => false
  | .untilOut o _ :: cs, s => s.out o && exhausted cs s
  | .input 0 _ :: cs, s => exhausted cs s
  | .input (_ + 1) _ :: _, _ => false

/-- The program has ended: this is the cycle after its last directive, or after its last input word (R90, R199; log 20). -/
def State.finished (s : State) : Bool := exhausted s.script s

end Sys2Proof.Machine
end

