-- ==== Sys2Proof/Machine/Cycle.lean ====
section
/-! DEFINITION. Machine/Cycle.lean: one clock cycle (30_encoding.md R84, 43_uartcore.md R190, R191): select the four rules, run each on the state at the start of the cycle, commit all writes together. -/

namespace Sys2Proof.Machine

/-- The four rules of a cycle (R84). -/
structure Fetched where
  tx     : Instr
  rx     : Instr
  txBaud : Instr
  rxBaud : Instr
deriving DecidableEq, Repr

/-- Compute the four selector words and find the one row each matches (R84). -/
def fetch (s : State) : Except DecodeReject Fetched :=
  match decodeBits .txsel s.txSel with
  | .error e => .error e
  | .ok itx =>
    match decodeBits .rxsel s.rxSel with
    | .error e => .error e
    | .ok irx =>
      match decodeBits (.bsel .tx) (s.bSel .tx) with
      | .error e => .error e
      | .ok ibt =>
        match decodeBits (.bsel .rx) (s.bSel .rx) with
        | .error e => .error e
        | .ok ibr => .ok { tx := itx, rx := irx, txBaud := ibt, rxBaud := ibr }

/-- Commit the writes of the four rules (R15, R59): each register from the rule of the block that owns it (R21), each rule
having run on the same state. The draws of the next cycle are fresh (R104). -/
def commit (s tx rx txBaud rxBaud : State) : State :=
  { s with
    tx := { tx.tx with cnt := txBaud.tx.cnt }
    rx := { rx.rx with cnt := rxBaud.rx.cnt }
    drawCtr := s.drawCtr + 1 }

/-- One clock cycle on the levels now on the pins. A transmitter fault is reported before a receiver fault (log 11). -/
def cycle (s : State) : Result :=
  match fetch s with
  | .error _ => .fault .unreachableSelector
  | .ok f =>
    andThen (exec f.tx s) fun a =>
      andThen (exec f.rx s) fun b =>
        andThen (exec f.txBaud s) fun c =>
          andThen (exec f.rxBaud s) fun d => .next (commit s a b c d)

/-- R192: the state after n cycles from s, with the pins of cycle c given by `ins c`. -/
def runPins (ins : Nat → Pins) (s : State) : Nat → Result
  | 0 => .next s
  | n + 1 => andThen (runPins ins s n) fun t => cycle (t.withPins (ins n))

end Sys2Proof.Machine
end

