-- ==== Sys2Proof/Machine/FetchWord.lean ====
section
/-! DEFINITION. Machine/FetchWord.lean: the registers and pins that make a selector word come out as a given word (log 8). The core fetches nothing (20_memory.md R63); what selects the next rule is the selector word. -/

namespace Sys2Proof.Machine

/-- Make TXSEL (R78) the word whose bits are given: the divisor is 32, so the tick is `tx_cnt = 31`. -/
def placeTxSel (st : TxState) (req tick full : Bool) (s : State) : State :=
  { s with
    tx := { s.tx with state := st, cnt := if tick then 31 else 0, bitcnt := if full then 8#4 else 0#4 }
    pins := { s.pins with divisor := 32#16, txReq := req }
    script := [] }

/-- Make RXSEL (R79) the word whose bits are given: `rx_cnt` is 1, so the edge is qualified and the tick is a target of 2. A word
with `samp` and `last` both 1, or with `ddone` outside DATA, is produced by no state (R82). -/
def placeRxSel (st : RxState) (tick edge samp last ddone vote : Bool) (s : State) : State :=
  { s with
    rx := { s.rx with
      state := st
      cnt := 1
      os := if last then 15#4 else if samp then 7#4 else 0#4
      win := if vote then 7#3 else 0#3
      bitcnt := if ddone then 8#4 else 0#4 }
    pins := { s.pins with divisor := if tick then 32#16 else 48#16, line := .ext (!edge) }
    script := [] }

/-- Make the TX BaudTick's BSEL (R80) the word whose bits are given. -/
def placeBSel (zero hit restart : Bool) (s : State) : State :=
  { s with
    tx := { s.tx with state := .wait, cnt := if hit then 1 else 0 }
    pins := { s.pins with divisor := if zero then 0#16 else 2#16, txReq := restart }
    script := [] }

/-- Make the next cycle's selector word of a table the word w. -/
def placeWord (t : Table) (w : Nat) (s : State) : State :=
  match t with
  | .txsel => placeTxSel (TxState.ofCode (BitVec.ofNat 2 w)) (w.testBit 2) (w.testBit 3) (w.testBit 4) s
  | .rxsel =>
    placeRxSel (RxState.ofCode (BitVec.ofNat 3 w)) (w.testBit 3) (w.testBit 4) (w.testBit 5) (w.testBit 6) (w.testBit 7)
      (w.testBit 8) s
  | .bsel _ => placeBSel (w.testBit 0) (w.testBit 1) (w.testBit 2) s

end Sys2Proof.Machine
end

