-- ==== Sys2Proof/Machine/Step.lean ====
section
/-! DEFINITION. Machine/Step.lean: one step is one clock cycle (10_state.md R20): the host's pending commands drive the pins, then the cycle runs. -/

namespace Sys2Proof.Machine

/-- One step. -/
def step (s : State) : Host.Outcome State Fault Refusal :=
  match drive s.script s with
  | none => .refused .stimulusTimeout
  | some t => cycle t

/-- The state whose next step selects, in the table of that width, the rule the word w names (log 7, 8). -/
def State.withFetchWord (s : State) (nbits w : Nat) : State :=
  match tableOfWidth nbits with
  | some t => placeWord t w s
  | none => s

end Sys2Proof.Machine
end

