-- ==== Sys2Proof/Machine/Trace.lean ====
section
/-! DEFINITION. Machine/Trace.lean: what a run shows (43_uartcore.md R192), where a program ends (R199, 30_encoding.md R90), its encoding (R91), and the error and event conditions of 60_exceptions.md R211, R220. No step reads any of it. -/

namespace Sys2Proof.Machine

/-- The input words of the next n cycles (R86). -/
def inputTrace : Nat → State → List (BitVec 26)
  | 0, _ => []
  | n + 1, s =>
    match drive s.script s with
    | none => []
    | some t =>
      t.inWord ::
        match cycle t with
        | .next u => inputTrace n u
        | .fault _ => []
        | .refused _ => []

/-- The outputs during the next n cycles (R192). -/
def outputTrace : Nat → State → List Outputs
  | 0, _ => []
  | n + 1, s =>
    s.outputs ::
      match step s with
      | .next u => outputTrace n u
      | .fault _ => []
      | .refused _ => []

/-- R91: pairs `(count, IN)` in cycle order. -/
def runLength : List (BitVec 26) → List (Nat × BitVec 26)
  | [] => []
  | w :: ws =>
    match runLength ws with
    | [] => [(1, w)]
    | (n, v) :: rest => if v = w then (n + 1, v) :: rest else (1, w) :: (n, v) :: rest

/-- How a run of a program stands. -/
inductive RunStop where
  /-- The last directive, or the last input word, is done. -/
  | ended
  /-- The cycles allowed are used up; the program has not ended. -/
  | unfinished
  | fault (r : Fault)
  /-- With stimulusTimeout: the program's outcome is TIMEOUT (R89). -/
  | refused (r : Refusal)
deriving DecidableEq, Repr

/-- A run of a program: the input and the output word of each of its cycles (R86, R87), and the state it stands in. -/
structure Run where
  words : List (BitVec 26)
  outs  : List (BitVec 12)
  stop  : RunStop
  final : State
deriving DecidableEq, Repr

/-- A run of no cycle. -/
def Run.still (stop : RunStop) (s : State) : Run := { words := [], outs := [], stop := stop, final := s }

/-- One more cycle before a run. -/
def Run.after (w : BitVec 26) (o : BitVec 12) (r : Run) : Run := { r with words := w :: r.words, outs := o :: r.outs }

/-- Play the pending commands to their end, for n cycles at most (R199; log 20). The run ends before the cycle that no command
asks for; its `final` holds the end state's registers. -/
def State.play : Nat → State → Run
  | 0, s => Run.still (if s.finished then .ended else .unfinished) s
  | n + 1, s =>
    if s.finished then Run.still .ended s
    else
      match drive s.script s with
      | none => Run.still (.refused .stimulusTimeout) s
      | some t =>
        match cycle t with
        | .next u => (State.play n u).after t.inWord t.outputs.word
        | .fault r => (Run.still (.fault r) t).after t.inWord t.outputs.word
        | .refused r => (Run.still (.refused r) t).after t.inWord t.outputs.word

/-- The end state of a run, "together with the output word of the last cycle" (R199). DESIGN CHOICE (log 21): a run that stops
with TIMEOUT (R89) has none, where the spec does not say; its `final` still holds the registers. -/
def Run.endState (r : Run) : Option (State × Option (BitVec 12)) :=
  match r.stop with
  | .ended => some (r.final, r.outs.getLast?)
  | .unfinished => none
  | .fault _ => none
  | .refused _ => none

/-- A program's run from the reset state (R90). -/
def Program.run (n : Nat) (p : Program) (d : ResetDraws) : Run := (p.load d).play n

/-- R91: a program's encoding, the run-length list of its input words, where the program ends within n cycles. An UNTIL counts
the cycles it has in that run. DESIGN CHOICE (log 21): a program that stops with TIMEOUT (R89) has none, where the spec does not
say; the `words` of its run are still there. -/
def Program.encoding (n : Nat) (p : Program) (d : ResetDraws) : Option (List (Nat × BitVec 26)) :=
  match (p.run n d).stop with
  | .ended => some (runLength (p.run n d).words)
  | .unfinished => none
  | .fault _ => none
  | .refused _ => none

/-- R199: from such a state, with the inputs held, only the WAIT idle rules and the BaudTicks act. -/
def State.quiescent (s : State) : Bool :=
  s.tx.state == .wait && s.rx.state == .wait && !s.pins.txReq && s.rxIn

/-- R211's codes: names of the spec, not values the hardware holds. -/
inductive ErrCode where
  | noiseStart
  | parity
  | framing
  | overrun
  | busyReq
  | lowDivisor
deriving DecidableEq, Repr

/-- The receiver's rule of this cycle. -/
def State.rxRule (s : State) : Option Instr := (decodeBits .rxsel s.rxSel).toOption

/-- R213: the cycle writes `rx_buff_q`. -/
def State.latches (s : State) : Bool :=
  s.rxRule == some .rxParityCheck || (s.rxRule == some .rxStopEnd && !s.cfg.rxParity)

/-- R211: the condition arises in this cycle. The core detects neither E4, E5 nor E6; whether the host has read `rx_buff` is
the host's own knowledge, so E4 takes it as an argument (log 16). -/
def State.raises (unread : Bool) (s : State) : ErrCode → Bool
  | .noiseStart => s.rxRule == some .rxStartReject
  | .parity => s.rxRule == some .rxParityCheck && parityError s.rx.acc s.vote
  | .framing => s.rxRule == some .rxStopEnd && !s.vote
  | .overrun => unread && s.latches
  | .busyReq => s.pins.txReq && s.tx.state != .wait
  | .lowDivisor => s.target .tx == 0 || s.target .rx == 0

/-- R220: a collaborator sees a rising edge of `tx_rdy` between two cycles. -/
def txRdyRises (before after : State) : Bool := !before.outputs.txRdy && after.outputs.txRdy

/-- R220: a collaborator sees a rising edge of `rx_rdy` between two cycles. -/
def rxRdyRises (before after : State) : Bool := !before.outputs.rxRdy && after.outputs.rxRdy

end Sys2Proof.Machine
end

