-- ==== Sys2Proof/Safety.lean ====
section
/-! DEFINITION. Safety.lean: the invariants of 41_tx_engine.md R131 and 42_rx_engine.md R164, the host contract of 43_uartcore.md R196, and the conditions of the timeline rules, in the terms claims use. -/

namespace Sys2Proof.Machine

/-- R131, with the variant's state (R23, R130) and the counter's width (R25). -/
structure TxInv (s : State) : Prop where
  wait_zero : s.tx.state = .wait → s.tx.bitcnt = 0#4
  bitcnt_le : s.tx.bitcnt.toNat ≤ 8
  full : s.tx.state = .parity ∨ s.tx.state = .stop → s.tx.bitcnt = 8#4
  busy : s.tx.state ≠ .wait → s.tx.rdyQ = false
  parity_on : s.tx.state = .parity → s.cfg.txParity = true
  cnt_lt : s.tx.cnt < 2 ^ s.cfg.txCntW

/-- `rx_state` holds a code the variant has (R31, R85). -/
def RxState.legal (parity : Bool) : RxState → Bool
  | .wait => true
  | .start => true
  | .data => true
  | .parity => parity
  | .stop => true
  | .reserved001 => false
  | .reserved010 => false
  | .reserved011 => false

/-- `tx_state` holds a state the variant has (R23, R85). -/
def TxState.legal (parity : Bool) : TxState → Bool
  | .wait => true
  | .data => true
  | .parity => parity
  | .stop => true

/-- Neither engine is in a state R85 calls illegal. -/
def State.legal (s : State) : Bool := s.tx.state.legal s.cfg.txParity && s.rx.state.legal s.cfg.rxParity

/-- R164, with the legal states (R85) and the counter's width (R33). -/
structure RxInv (s : State) : Prop where
  legal : s.rx.state.legal s.cfg.rxParity = true
  wait_zero : s.rx.state = .wait → s.rx.os = 0#4 ∧ s.rx.bitcnt = 0#4
  start_zero : s.rx.state = .start → s.rx.bitcnt = 0#4
  bitcnt_le : s.rx.bitcnt.toNat ≤ 8
  full : s.rx.state = .parity ∨ s.rx.state = .stop → s.rx.bitcnt = 8#4
  data_full : s.rx.state = .data → s.rx.bitcnt = 8#4 → s.rx.os = 0#4
  rdy : s.rx.rdyQ = true → s.rx.state = .wait
  cnt_lt : s.rx.cnt < 2 ^ s.cfg.rxCntW

/-- What holds in every state reachable from reset. -/
structure Inv (s : State) : Prop where
  cfg_wf : s.cfg.wf = true
  tx : TxInv s
  rx : RxInv s

/-- R196: what a host must do in a cycle: a divisor of 16 or more, and a request only when `tx_rdy = 1`. The core enforces
none of it. -/
def State.hostContract (s : State) : Bool :=
  decide (16 ≤ s.pins.divisor.toNat) && (!s.pins.txReq || s.tx.rdyQ)

/-- `rx` bits of a run: the level an external line shows in cycle c. -/
def extLine (level : Nat → Bool) (divisor : Divisor) (c : Nat) : Pins :=
  { divisor := divisor, txBuff := 0, txReq := false, line := .ext (level c) }

/-- R165: the cycles, counted from detection, in which frame bit k is sampled, and the majority of what the line shows there
(R150), for R = `divisor >> 4`. -/
def sampledBit (level : Nat → Bool) (R k : Nat) : Bool :=
  maj3 (level (16 * R * k + 8 * R)) (level (16 * R * k + 9 * R)) (level (16 * R * k + 10 * R))

/-- R74: the byte made of the eight data bits in line order, frame bits 1 to 8. -/
def sampledByte (level : Nat → Bool) (R : Nat) : Byte :=
  BitVec.ofNat 8 (bitsWord ((List.range 8).map fun k => sampledBit level R (k + 1)))

end Sys2Proof.Machine
end

