-- ==== Sys2Proof/Certificates/Slice0/Obligations.lean ====
section
/-! DEFINITION. Certificates/Slice0/Obligations.lean: the statements for the provers. Each docstring names the rule of spec/ it formalises. -/

namespace Sys2Proof.Claims

open Sys2Proof.Machine

/-- R81, transcribed: mask, match, rule. -/
def txMap : List (Nat × Nat × Instr) :=
  [(0x07, 0x00, .txWaitIdle), (0x07, 0x04, .txWaitAccept), (0x13, 0x11, .txDataEnd), (0x1B, 0x09, .txDataShift),
    (0x1B, 0x01, .txDataHold), (0x0B, 0x0A, .txParityEmit), (0x0B, 0x02, .txParityHold), (0x0B, 0x0B, .txStopEmit),
    (0x0B, 0x03, .txStopHold)]

/-- R82, transcribed. -/
def rxMap : List (Nat × Nat × Instr) :=
  [(0x017, 0x000, .rxWaitIdle), (0x017, 0x010, .rxWaitDetect), (0x087, 0x085, .rxDataDone), (0x08C, 0x004, .rxOvsHold),
    (0x0EC, 0x00C, .rxOvsCount), (0x0EC, 0x02C, .rxOvsSample), (0x1EF, 0x04C, .rxStartConfirm),
    (0x1EF, 0x14C, .rxStartReject), (0x0EF, 0x04D, .rxDataBit), (0x0EF, 0x04E, .rxParityCheck), (0x0EF, 0x04F, .rxStopEnd),
    (0x007, 0x001, .rxIllegal001), (0x006, 0x002, .rxIllegal01X)]

/-- R83, transcribed, for one BaudTick. -/
def baudMap (n : BaudInst) : List (Nat × Nat × Instr) :=
  [(0x4, 0x4, .baudRestart n), (0x7, 0x2, .baudWrap n), (0x5, 0x1, .baudDraw n), (0x7, 0x0, .baudInc n)]

/-- A word selects a row: `w & mask == match`. -/
def selects (w : Nat) (r : Nat × Nat × Instr) : Prop := w &&& r.1 = r.2.1

/-- The condition column of R81, and the conditions the rules R121 to R129 give. No other row is a transmitter's. -/
def txCondition (s : State) : Instr → Prop
  | .txWaitIdle => s.tx.state = .wait ∧ s.pins.txReq = false
  | .txWaitAccept => s.tx.state = .wait ∧ s.pins.txReq = true
  | .txDataEnd => s.tx.state = .data ∧ s.tx.bitcnt.getLsbD 3 = true
  | .txDataShift => s.tx.state = .data ∧ s.tx.bitcnt.getLsbD 3 = false ∧ s.tick .tx = true
  | .txDataHold => s.tx.state = .data ∧ s.tx.bitcnt.getLsbD 3 = false ∧ s.tick .tx = false
  | .txParityEmit => s.tx.state = .parity ∧ s.tick .tx = true
  | .txParityHold => s.tx.state = .parity ∧ s.tick .tx = false
  | .txStopEmit => s.tx.state = .stop ∧ s.tick .tx = true
  | .txStopHold => s.tx.state = .stop ∧ s.tick .tx = false
  | _ => False

/-- R151: the start condition. -/
def startEdge (s : State) : Prop := s.rxIn = false ∧ (s.rx.cnt ≠ 0 ∨ s.cfg.rxEdgeQualified = false)

/-- START, DATA, PARITY or STOP, and not at DATA's end (R82). -/
def oversampling (s : State) : Prop :=
  s.rx.state = .start ∨ (s.rx.state = .data ∧ s.rx.bitcnt.getLsbD 3 = false) ∨ s.rx.state = .parity ∨ s.rx.state = .stop

/-- The condition column of R82, and the conditions the rules R152 to R163 give. -/
def rxCondition (s : State) : Instr → Prop
  | .rxWaitIdle => s.rx.state = .wait ∧ ¬ startEdge s
  | .rxWaitDetect => s.rx.state = .wait ∧ startEdge s
  | .rxDataDone => s.rx.state = .data ∧ s.rx.bitcnt.getLsbD 3 = true
  | .rxOvsHold => oversampling s ∧ s.tick .rx = false
  | .rxOvsCount => oversampling s ∧ s.tick .rx = true ∧ ¬ (7 ≤ s.rx.os.toNat ∧ s.rx.os.toNat ≤ 9) ∧ s.rx.os.toNat ≠ 15
  | .rxOvsSample => oversampling s ∧ s.tick .rx = true ∧ 7 ≤ s.rx.os.toNat ∧ s.rx.os.toNat ≤ 9
  | .rxStartConfirm => s.rx.state = .start ∧ s.tick .rx = true ∧ s.rx.os.toNat = 15 ∧ winVote s.rx.win = false
  | .rxStartReject => s.rx.state = .start ∧ s.tick .rx = true ∧ s.rx.os.toNat = 15 ∧ winVote s.rx.win = true
  | .rxDataBit => s.rx.state = .data ∧ s.rx.bitcnt.getLsbD 3 = false ∧ s.tick .rx = true ∧ s.rx.os.toNat = 15
  | .rxParityCheck => s.rx.state = .parity ∧ s.tick .rx = true ∧ s.rx.os.toNat = 15
  | .rxStopEnd => s.rx.state = .stop ∧ s.tick .rx = true ∧ s.rx.os.toNat = 15
  | .rxIllegal001 => s.rx.state = .reserved001
  | .rxIllegal01X => s.rx.state = .reserved010 ∨ s.rx.state = .reserved011
  | _ => False

/-- The condition column of R83, for one BaudTick. -/
def baudCondition (n : BaudInst) (s : State) : Instr → Prop
  | .baudRestart m => m = n ∧ s.restart n = true
  | .baudWrap m => m = n ∧ s.restart n = false ∧ s.target n ≠ 0 ∧ s.cnt n + 1 = s.target n
  | .baudDraw m => m = n ∧ s.restart n = false ∧ s.target n = 0
  | .baudInc m => m = n ∧ s.restart n = false ∧ s.target n ≠ 0 ∧ s.cnt n + 1 ≠ s.target n
  | _ => False

/-- R102 to R105 together: what a BaudTick's counter holds in the next cycle. -/
def counterAfter (n : BaudInst) (s : State) : Nat :=
  if s.restart n = true then 0 else if s.tick n = true then 0 else (s.cnt n + 1) % 2 ^ s.cntW n

/-- Only the counter of one BaudTick differs. -/
def withCounter (n : BaudInst) (v : Nat) (s : State) : State :=
  match n with
  | .tx => { s with tx := { s.tx with cnt := v } }
  | .rx => { s with rx := { s.rx with cnt := v } }

/-- The sample window with bit k replaced, as the concatenation `{w2, w1, w0}` of R12. -/
def windowWith (w : BitVec 3) (k : Nat) (b : Bool) : BitVec 3 :=
  BitVec.ofBool (if k = 2 then b else w.getLsbD 2) ++ BitVec.ofBool (if k = 1 then b else w.getLsbD 1) ++
    BitVec.ofBool (if k = 0 then b else w.getLsbD 0)

/-- `{v, acc[7:1]}` of R74, as a concatenation. -/
def accWith (v : Bool) (acc : Byte) : Byte := BitVec.ofBool v ++ acc.extractLsb' 1 7

/-- R191, transcribed line by line, one function of the state and the pins; its fault in TX state PARITY takes R130's name. -/
def transition (s : State) : Result :=
  -- pass 1
  let Ttx := s.pins.divisor.toNat
  let Trx := s.pins.divisor.toNat / 16
  let rx := match s.pins.line with
    | .loop => s.tx.q
    | .ext l => l
  let accept := (s.tx.state == .wait) && s.pins.txReq
  let tickTx := if Ttx = 0 then Config.tickDraw .tx s.drawCtr else s.tx.cnt + 1 == Ttx
  let qual := (s.rx.cnt != 0) || !s.cfg.rxEdgeQualified
  let edge := (rx == false) && qual
  let detect := (s.rx.state == .wait) && edge
  let tickRx := if Trx = 0 then Config.tickDraw .rx s.drawCtr else s.rx.cnt + 1 == Trx
  let vote := maj3 (s.rx.win.getLsbD 0) (s.rx.win.getLsbD 1) (s.rx.win.getLsbD 2)
  -- pass 2
  let tx0 := { s.tx with cnt := if accept || tickTx then 0 else (s.tx.cnt + 1) % 2 ^ s.cfg.txCntW }
  let rx0 := { s.rx with cnt := if detect || tickRx then 0 else (s.rx.cnt + 1) % 2 ^ s.cfg.rxCntW }
  let tx' : Except Fault TxRegs := match s.tx.state with
    | .wait =>
      if s.pins.txReq then
        .ok { tx0 with
          shift := s.pins.txBuff, q := false, rdyQ := false, state := .data
          par := if s.cfg.txParity then xor8 s.pins.txBuff else s.tx.par }
      else .ok { tx0 with q := true, rdyQ := true }
    | .data =>
      if s.tx.bitcnt.getLsbD 3 then .ok { tx0 with state := if s.cfg.txParity then .parity else .stop }
      else if tickTx then
        .ok { tx0 with q := s.tx.shift.getLsbD 0, shift := s.tx.shift >>> 1, bitcnt := s.tx.bitcnt + 1 }
      else .ok tx0
    | .parity =>
      if !s.cfg.txParity then .error .txParityStateWithoutParity
      else if tickTx then .ok { tx0 with q := s.tx.par, state := .stop }
      else .ok tx0
    | .stop => if tickTx then .ok { tx0 with q := true, bitcnt := 0, state := .wait } else .ok tx0
  let atVote : RxRegs := match s.rx.state with
    | .start => { rx0 with os := 0, state := if vote = false then .data else .wait }
    | .data => { rx0 with os := 0, acc := accWith vote s.rx.acc, bitcnt := s.rx.bitcnt + 1 }
    | .parity => { rx0 with os := 0, errorQ := xor8 s.rx.acc ^^ vote, buffQ := s.rx.acc, state := .stop }
    | _ =>
      { rx0 with
        os := 0, errorQ := (vote == false) || s.rx.errorQ
        buffQ := if s.cfg.rxParity then s.rx.buffQ else s.rx.acc
        rdyQ := true, bitcnt := 0, state := .wait }
  let sampling : RxRegs :=
    if s.rx.state = .data ∧ s.rx.bitcnt.getLsbD 3 = true then
      { rx0 with state := if s.cfg.rxParity then .parity else .stop }
    else if tickRx = false then rx0
    else if s.rx.os = 7 ∨ s.rx.os = 8 ∨ s.rx.os = 9 then
      { rx0 with win := windowWith s.rx.win (s.rx.os.toNat - 7) rx, os := s.rx.os + 1 }
    else if s.rx.os ≠ 15 then { rx0 with os := s.rx.os + 1 }
    else atVote
  let rx' : Except Fault RxRegs := match s.rx.state with
    | .wait =>
      if edge then .ok { rx0 with rdyQ := false, win := windowWith s.rx.win 0 rx, os := 0, state := .start }
      else .ok { rx0 with rdyQ := false }
    | .reserved001 => .error .rxIllegalState
    | .reserved010 => .error .rxIllegalState
    | .reserved011 => .error .rxIllegalState
    | .start => .ok sampling
    | .data => .ok sampling
    | .parity => if !s.cfg.rxParity then .error .rxIllegalState else .ok sampling
    | .stop => .ok sampling
  match tx' with
  | .error r => .fault r
  | .ok tx1 =>
    match rx' with
    | .error r => .fault r
    | .ok rx1 => .next { s with tx := tx1, rx := rx1, drawCtr := s.drawCtr + 1 }

/-- The line bit of R132's table in cycle c after acceptance in cycle 0: start, data, parity where there is one, then 1. -/
def lineBit (parity : Bool) (b : Byte) (D c : Nat) : Bool :=
  if c ≤ D then false
  else if c ≤ 9 * D then b.getLsbD ((c - 1) / D - 1)
  else if parity = true ∧ c ≤ 10 * D then xor8 b
  else true

/-- The `tx_state` column of R132's table. -/
def txStateAt (parity : Bool) (D c : Nat) : TxState :=
  if c ≤ 8 * D + 1 then .data
  else if c ≤ 9 * D then (if parity then .parity else .stop)
  else if parity = true ∧ c ≤ 10 * D then .stop
  else .wait

/-- The cycle, counted from acceptance, in which the transmitter is back in WAIT, less 1 (R132). -/
def txBusy (parity : Bool) (D : Nat) : Nat := if parity then 10 * D else 9 * D

/-- The vote of the stop bit, counted from detection (R165). -/
def stopVote (parity : Bool) (R : Nat) : Nat := if parity then 176 * R else 160 * R

/-- S of R168: 10 with parity, 9 without. -/
def frameSpan (parity : Bool) : Nat := if parity then 10 else 9

end Sys2Proof.Claims

open Sys2Proof Sys2Proof.Machine Sys2Proof.Claims

/-- R81, R83: a TXSEL word, and a BSEL word of either BaudTick, decodes to the row it matches; each of the 32 and each of the 8
matches exactly one. -/
def Obligations.EveryTxAndBaudWordDecodesToItsOneRow : Prop :=
  (∀ w < 32, ∃ r ∈ txMap, selects w r ∧ (∀ r' ∈ txMap, selects w r' → r' = r) ∧ decode .txsel w = .ok r.2.2) ∧
    ∀ n, ∀ w < 8, ∃ r ∈ baudMap n,
      selects w r ∧ (∀ r' ∈ baudMap n, selects w r' → r' = r) ∧ decode (.bsel n) w = .ok r.2.2

/-- R82: a RXSEL word decodes to the row it matches, to no row when it matches none, and every state's word matches one. -/
def Obligations.RxWordsDecodeByMaskAndMatch : Prop :=
  (∀ w < 512, ∀ i, decode .rxsel w = .ok i ↔ ∃ r ∈ rxMap, selects w r ∧ r.2.2 = i) ∧
    (∀ w < 512, ∀ r ∈ rxMap, ∀ r' ∈ rxMap, selects w r → selects w r' → r' = r) ∧
    (∀ w < 512, (¬ ∃ r ∈ rxMap, selects w r) → decode .rxsel w = .error .noRow) ∧
    ∀ s : State, ∃ r ∈ rxMap, selects (bitsWord s.rxSel) r

/-- R78, R79, R80: where each field stands in the selector words; each word selects exactly one row of its table. -/
def Obligations.SelectorWordsHoldTheirFields : Prop :=
  ∀ s : State,
    bitsWord s.txSel =
        s.tx.state.code.toNat + 4 * s.pins.txReq.toNat + 8 * (s.tick .tx).toNat + 16 * (s.tx.bitcnt.getLsbD 3).toNat ∧
      bitsWord s.rxSel =
        s.rx.state.code.toNat + 8 * (s.tick .rx).toNat +
          16 * (!s.rxIn && (s.rx.cnt != 0 || !s.cfg.rxEdgeQualified)).toNat +
          32 * (s.rx.os == 7 || s.rx.os == 8 || s.rx.os == 9).toNat + 64 * (s.rx.os == 15).toNat +
          128 * (s.rx.state == .data && s.rx.bitcnt.getLsbD 3).toNat +
          256 * (maj3 (s.rx.win.getLsbD 0) (s.rx.win.getLsbD 1) (s.rx.win.getLsbD 2)).toNat ∧
      (∀ n, bitsWord (s.bSel n) =
        (s.target n == 0).toNat + 2 * (s.target n != 0 && s.cnt n + 1 == s.target n).toNat + 4 * (s.restart n).toNat) ∧
      (∃! r, r ∈ txMap ∧ selects (bitsWord s.txSel) r) ∧ (∃! r, r ∈ rxMap ∧ selects (bitsWord s.rxSel) r) ∧
      ∀ n, ∃! r, r ∈ baudMap n ∧ selects (bitsWord (s.bSel n)) r

/-- Decode and encode agree: a word of a table decodes to a rule exactly when the rule is of that table, the word has the
table's width, and the word is the encoder's outside the bits the rule's mask leaves free. So the encoder's word decodes to the
rule, and no word decodes to two. -/
def Obligations.DecodeAndEncodeAgree : Prop :=
  ∀ (t : Table) (w : Nat) (i : Instr),
    decode t w = .ok i ↔ i.table = t ∧ w < 2 ^ t.width ∧ w &&& i.mask = encode i

/-- A few words written bit by bit from R81 to R83, and two that are no row. -/
def Obligations.SampleWordsDecode : Prop :=
  decode .txsel 0b00100 = .ok .txWaitAccept ∧ decode .txsel 0b10001 = .ok .txDataEnd ∧
    decode .rxsel 0b000010000 = .ok .rxWaitDetect ∧ decode .rxsel 0b101001100 = .ok .rxStartReject ∧
    decode .rxsel 0b001001111 = .ok .rxStopEnd ∧ decode (.bsel .rx) 0b010 = .ok (.baudWrap .rx) ∧
    decode .rxsel 0b001101101 = .error .noRow ∧ decode .txsel 0b100000 = .error .wrongWidth

/-- R120: in every state exactly one transmitter rule fires, the one whose condition holds; DATA's end comes before the tick. -/
def Obligations.TxRuleIsChosenByItsCondition : Prop :=
  ∀ s : State, ∃ f, fetch s = .ok f ∧ ∀ i, f.tx = i ↔ txCondition s i

/-- R151: in every state exactly one receiver rule fires, the one whose condition holds. -/
def Obligations.RxRuleIsChosenByItsCondition : Prop :=
  ∀ s : State, ∃ f, fetch s = .ok f ∧ ∀ i, f.rx = i ↔ rxCondition s i

/-- R83's conditions: in every state exactly one rule fires in each BaudTick; and R106: what restarts each. -/
def Obligations.BaudRulesAreChosenByTheirConditions : Prop :=
  ∀ s : State, ∃ f, fetch s = .ok f ∧ (∀ i, f.txBaud = i ↔ baudCondition .tx s i) ∧
    (∀ i, f.rxBaud = i ↔ baudCondition .rx s i) ∧
    (s.restart .tx = true ↔ s.tx.state = .wait ∧ s.pins.txReq = true) ∧
    (s.restart .rx = true ↔ s.rx.state = .wait ∧ startEdge s)

/-- R84: with no host command pending, a step runs the four decoded rules on one state and commits their writes together, each
register from the rule of the block that owns it. The order of two faults is the model's choice (log 11). -/
def Obligations.StepRunsTheFourDecodedRules : Prop :=
  ∀ (s : State) (itx irx ibt ibr : Instr), s.script = [] →
    decodeBits .txsel s.txSel = .ok itx → decodeBits .rxsel s.rxSel = .ok irx →
    decodeBits (.bsel .tx) (s.bSel .tx) = .ok ibt → decodeBits (.bsel .rx) (s.bSel .rx) = .ok ibr →
    (∀ a b c d, exec itx s = .next a → exec irx s = .next b → exec ibt s = .next c → exec ibr s = .next d →
      step s = .next
        { s with
          tx := { a.tx with cnt := c.tx.cnt }, rx := { b.rx with cnt := d.rx.cnt }, drawCtr := s.drawCtr + 1 }) ∧
    (∀ r, exec itx s = .fault r → step s = .fault r) ∧
    (∀ a r, exec itx s = .next a → exec irx s = .fault r → step s = .fault r)

/-- R101, R103, R105: with a target, the pulse is the integer comparison `cnt + 1 == T`, so a full counter gives none; the wrap
and the increment complete with the counter they give, and change nothing else; a cycle without a restart has the one or the
other's effect on the counter. -/
def Obligations.BaudWrapAndIncComplete : Prop :=
  ∀ (n : BaudInst) (s : State), s.target n ≠ 0 →
    (s.tick n = true ↔ s.cnt n + 1 = s.target n) ∧
      (s.cfg.wf = true → s.cnt n = 2 ^ s.cntW n - 1 → s.tick n = false) ∧
      exec (.baudWrap n) s = .next (withCounter n 0 s) ∧
      exec (.baudInc n) s = .next (withCounter n ((s.cnt n + 1) % 2 ^ s.cntW n) s) ∧
      (s.script = [] → s.legal = true → s.restart n = false →
        ∃ t, step s = .next t ∧
          t.cnt n = if s.cnt n + 1 = s.target n then 0 else (s.cnt n + 1) % 2 ^ s.cntW n)

/-- R102, R104: a restart puts 0 in the counter whatever the pulse; with target 0 the pulse is the cycle's free draw (log 6),
whatever it is, and the counter follows it. Nothing else changes. A cycle has that effect on the counter. -/
def Obligations.BaudRestartAndDrawComplete : Prop :=
  ∀ (n : BaudInst) (s : State),
    exec (.baudRestart n) s = .next (withCounter n 0 s) ∧
      (s.target n = 0 →
        s.tick n = Config.tickDraw n s.drawCtr ∧
          exec (.baudDraw n) s =
            .next (withCounter n (if s.tick n = true then 0 else (s.cnt n + 1) % 2 ^ s.cntW n) s)) ∧
      (s.script = [] → s.legal = true →
        ∃ t, step s = .next t ∧ (s.restart n = true → t.cnt n = 0) ∧
          (s.restart n = false → s.target n = 0 →
            t.cnt n = if s.tick n = true then 0 else (s.cnt n + 1) % 2 ^ s.cntW n))

/-- R107: after a restart or a wrap in cycle 0, with the target T constant from cycle 1 on and no restart since, the pulse of
cycle j is 1 exactly when T divides j. -/
def Obligations.TickPeriodIsTheTarget : Prop :=
  ∀ (n : BaudInst) (s : State) (ins : Nat → Pins) (T j : Nat) (t : State), Inv s →
    ((s.withPins (ins 0)).restart n = true ∨ (s.withPins (ins 0)).hit n = true) →
    1 ≤ T → (∀ c, 1 ≤ c → ∀ u : State, (u.withPins (ins c)).target n = T) →
    1 ≤ j → runPins ins s j = .next t →
    (∀ c u, 1 ≤ c → c < j → runPins ins s c = .next u → (u.withPins (ins c)).restart n = false) →
    ((t.withPins (ins j)).tick n = true ↔ T ∣ j)

/-- R108: with the counter at c and the target T from this cycle on, and no restart, the first pulse comes `T - 1 - c` cycles
on when `c + 1 ≤ T`, and `(2^W - c) + (T - 1)` cycles on when the count is already past the target. -/
def Obligations.LoweredTargetWaitsForTheWrap : Prop :=
  ∀ (n : BaudInst) (s : State) (ins : Nat → Pins) (T j : Nat) (t : State), Inv s → 1 ≤ T →
    (∀ c, ∀ u : State, (u.withPins (ins c)).target n = T) → runPins ins s j = .next t →
    (∀ c u, c < j → runPins ins s c = .next u → (u.withPins (ins c)).restart n = false) →
    let first := if s.cnt n + 1 ≤ T then T - 1 - s.cnt n else (2 ^ s.cntW n - s.cnt n) + (T - 1)
    (j < first → (t.withPins (ins j)).tick n = false) ∧ (j = first → (t.withPins (ins j)).tick n = true)

/-- R109: the receiver's bit period, and the receiver's counter stuck at 0 with a pulse in every cycle for divisors 16 to 31. -/
def Obligations.ReceiverTruncatesTheDivisor : Prop :=
  (∀ D : Divisor, 16 * (D >>> 4).toNat = D.toNat - (D &&& 15).toNat) ∧
    ∀ s t : State, s.script = [] → 16 ≤ s.pins.divisor.toNat → s.pins.divisor.toNat ≤ 31 → s.rx.cnt = 0 →
      step s = .next t → s.tick .rx = true ∧ t.rx.cnt = 0

/-- R167: with the qualifier, divisors 16 to 31 and `rx_cnt = 0` in WAIT, the receiver stays in WAIT whatever the line does. -/
def Obligations.QualifiedReceiverNeverStartsBelow32 : Prop :=
  ∀ (s : State) (ins : Nat → Pins) (n : Nat), Inv s → s.cfg.rxEdgeQualified = true → s.rx.state = .wait → s.rx.cnt = 0 →
    (∀ c, 16 ≤ (ins c).divisor.toNat ∧ (ins c).divisor.toNat ≤ 31) →
    ∃ t, runPins ins s n = .next t ∧ t.rx.state = .wait ∧ t.rx.cnt = 0

/-- The writes of R121 and R122, and their frame. -/
def Obligations.TxWaitRulesComplete : Prop :=
  ∀ s : State,
    exec .txWaitIdle s = .next { s with tx := { s.tx with q := true, rdyQ := true } } ∧
      exec .txWaitAccept s =
        .next { s with
          tx := { s.tx with
            shift := s.pins.txBuff, par := if s.cfg.txParity = true then xor8 s.pins.txBuff else s.tx.par
            q := false, cnt := 0, rdyQ := false, state := .data } }

/-- The writes of R123, R124 and R125, and their frame. -/
def Obligations.TxDataRulesComplete : Prop :=
  ∀ s : State,
    exec .txDataEnd s = .next { s with tx := { s.tx with state := if s.cfg.txParity = true then .parity else .stop } } ∧
      exec .txDataShift s =
        .next { s with
          tx := { s.tx with q := s.tx.shift.getLsbD 0, shift := s.tx.shift >>> 1, bitcnt := s.tx.bitcnt + 1 } } ∧
      exec .txDataHold s = .next s

/-- The writes of R126 to R129, and their frame; R130: the PARITY rules fault in an engine without parity. -/
def Obligations.TxParityAndStopRulesComplete : Prop :=
  ∀ s : State,
    (s.cfg.txParity = true →
      exec .txParityEmit s = .next { s with tx := { s.tx with q := s.tx.par, state := .stop } } ∧
        exec .txParityHold s = .next s) ∧
      (s.cfg.txParity = false →
        exec .txParityEmit s = .fault .txParityStateWithoutParity ∧
          exec .txParityHold s = .fault .txParityStateWithoutParity) ∧
      exec .txStopEmit s = .next { s with tx := { s.tx with q := true, bitcnt := 0, state := .wait } } ∧
      exec .txStopHold s = .next s

/-- R121, R122: a cycle of the transmitter in WAIT. Acceptance looks at the state and `tx_req` only, not at `tx_rdy_q`. -/
def Obligations.TxWaitCycle : Prop :=
  ∀ s : State, s.script = [] → s.rx.state.legal s.cfg.rxParity = true → s.tx.state = .wait →
    (s.pins.txReq = false →
      ∃ t, step s = .next t ∧ t.tx = { s.tx with q := true, rdyQ := true, cnt := counterAfter .tx s }) ∧
    (s.pins.txReq = true →
      ∃ t, step s = .next t ∧
        t.tx = { state := .data, cnt := 0, shift := s.pins.txBuff
                 par := if s.cfg.txParity = true then xor8 s.pins.txBuff else s.tx.par
                 bitcnt := s.tx.bitcnt, q := false, rdyQ := false })

/-- R123, R124, R125: a cycle of the transmitter in DATA. The end is tested before the tick. -/
def Obligations.TxDataCycle : Prop :=
  ∀ s : State, s.script = [] → s.rx.state.legal s.cfg.rxParity = true → s.tx.state = .data →
    ∃ t, step s = .next t ∧
      (s.tx.bitcnt.getLsbD 3 = true →
        t.tx = { s.tx with state := if s.cfg.txParity = true then .parity else .stop, cnt := counterAfter .tx s }) ∧
      (s.tx.bitcnt.getLsbD 3 = false → s.tick .tx = true →
        t.tx = { s.tx with
          q := s.tx.shift.getLsbD 0, shift := s.tx.shift >>> 1, bitcnt := s.tx.bitcnt + 1, cnt := 0 }) ∧
      (s.tx.bitcnt.getLsbD 3 = false → s.tick .tx = false → t.tx = { s.tx with cnt := counterAfter .tx s })

/-- R126, R127, R130: a cycle of the transmitter in PARITY, and the fault of an engine without parity. That this fault is the
one reported when the receiver's state is illegal too is the model's choice (log 11). -/
def Obligations.TxParityCycle : Prop :=
  ∀ s : State, s.script = [] → s.tx.state = .parity →
    (s.cfg.txParity = true → s.rx.state.legal s.cfg.rxParity = true →
      ∃ t, step s = .next t ∧
        (s.tick .tx = true → t.tx = { s.tx with q := s.tx.par, state := .stop, cnt := 0 }) ∧
        (s.tick .tx = false → t.tx = { s.tx with cnt := counterAfter .tx s })) ∧
    (s.cfg.txParity = false → step s = .fault .txParityStateWithoutParity)

/-- R128, R129: a cycle of the transmitter in STOP; `tx_rdy_q` stays as it is. -/
def Obligations.TxStopCycle : Prop :=
  ∀ s : State, s.script = [] → s.rx.state.legal s.cfg.rxParity = true → s.tx.state = .stop →
    ∃ t, step s = .next t ∧
      (s.tick .tx = true → t.tx = { s.tx with q := true, bitcnt := 0, state := .wait, cnt := 0 }) ∧
      (s.tick .tx = false → t.tx = { s.tx with cnt := counterAfter .tx s })

/-- The writes of R152 and R153, and their frame. -/
def Obligations.RxWaitRulesComplete : Prop :=
  ∀ s : State,
    exec .rxWaitIdle s = .next { s with rx := { s.rx with rdyQ := false } } ∧
      exec .rxWaitDetect s =
        .next { s with
          rx := { s.rx with
            rdyQ := false, win := windowWith s.rx.win 0 s.rxIn, cnt := 0, os := 0, state := .start } }

/-- The writes of R155, R156 and R157, and their frame, from every state but PARITY without RX_PARITY, where R163 faults. -/
def Obligations.RxOversampleRulesComplete : Prop :=
  ∀ s : State,
    (¬ (s.rx.state = .parity ∧ s.cfg.rxParity = false) →
      exec .rxOvsHold s = .next s ∧
        exec .rxOvsCount s = .next { s with rx := { s.rx with os := s.rx.os + 1 } } ∧
        (7 ≤ s.rx.os.toNat → s.rx.os.toNat ≤ 9 →
          exec .rxOvsSample s =
            .next { s with
              rx := { s.rx with win := windowWith s.rx.win (s.rx.os.toNat - 7) s.rxIn, os := s.rx.os + 1 } })) ∧
    (s.rx.state = .parity → s.cfg.rxParity = false →
      exec .rxOvsHold s = .fault .rxIllegalState ∧ exec .rxOvsCount s = .fault .rxIllegalState ∧
        exec .rxOvsSample s = .fault .rxIllegalState)

/-- The writes of R154, R158, R159 and R160, and their frame. -/
def Obligations.RxStartAndDataRulesComplete : Prop :=
  ∀ s : State,
    exec .rxDataDone s = .next { s with rx := { s.rx with state := if s.cfg.rxParity = true then .parity else .stop } } ∧
      exec .rxStartConfirm s = .next { s with rx := { s.rx with os := 0, state := .data } } ∧
      exec .rxStartReject s = .next { s with rx := { s.rx with os := 0, state := .wait } } ∧
      exec .rxDataBit s =
        .next { s with
          rx := { s.rx with acc := accWith (winVote s.rx.win) s.rx.acc, bitcnt := s.rx.bitcnt + 1, os := 0 } }

/-- The writes of R161 and R162, and their frame; R163: the parity rule faults in an engine without parity. -/
def Obligations.RxParityAndStopRulesComplete : Prop :=
  ∀ s : State,
    (s.cfg.rxParity = true →
      exec .rxParityCheck s =
        .next { s with
          rx := { s.rx with
            errorQ := xor8 s.rx.acc ^^ winVote s.rx.win, buffQ := s.rx.acc, os := 0, state := .stop } }) ∧
      (s.cfg.rxParity = false → exec .rxParityCheck s = .fault .rxIllegalState) ∧
      exec .rxStopEnd s =
        .next { s with
          rx := { s.rx with
            errorQ := !winVote s.rx.win || s.rx.errorQ
            buffQ := if s.cfg.rxParity = true then s.rx.buffQ else s.rx.acc
            rdyQ := true, bitcnt := 0, os := 0, state := .wait } }

/-- R163: the reserved-code rows fault, and so does a step in a reserved code, or in PARITY without RX_PARITY, when the
transmitter's state is legal. -/
def Obligations.RxIllegalStatesFault : Prop :=
  (∀ s : State, exec .rxIllegal001 s = .fault .rxIllegalState ∧ exec .rxIllegal01X s = .fault .rxIllegalState) ∧
    ∀ s : State, s.script = [] → s.tx.state.legal s.cfg.txParity = true →
      (s.rx.state = .reserved001 ∨ s.rx.state = .reserved010 ∨ s.rx.state = .reserved011 ∨
        (s.rx.state = .parity ∧ s.cfg.rxParity = false)) →
      step s = .fault .rxIllegalState

/-- R152, R153: a cycle of the receiver in WAIT. -/
def Obligations.RxWaitCycle : Prop :=
  ∀ s : State, s.script = [] → s.tx.state.legal s.cfg.txParity = true → s.rx.state = .wait →
    ∃ t, step s = .next t ∧
      (¬ startEdge s → t.rx = { s.rx with rdyQ := false, cnt := counterAfter .rx s }) ∧
      (startEdge s →
        t.rx = { s.rx with rdyQ := false, win := windowWith s.rx.win 0 false, cnt := 0, os := 0, state := .start })

/-- R155, R156, R157: a cycle of the four oversampling states away from the vote. -/
def Obligations.RxOversampleCycle : Prop :=
  ∀ s : State, s.script = [] → s.tx.state.legal s.cfg.txParity = true → s.rx.state.legal s.cfg.rxParity = true →
    oversampling s →
    ∃ t, step s = .next t ∧
      (s.tick .rx = false → t.rx = { s.rx with cnt := counterAfter .rx s }) ∧
      (s.tick .rx = true → 7 ≤ s.rx.os.toNat → s.rx.os.toNat ≤ 9 →
        t.rx = { s.rx with
          win := windowWith s.rx.win (s.rx.os.toNat - 7) s.rxIn, os := s.rx.os + 1, cnt := 0 }) ∧
      (s.tick .rx = true → ¬ (7 ≤ s.rx.os.toNat ∧ s.rx.os.toNat ≤ 9) → s.rx.os.toNat ≠ 15 →
        t.rx = { s.rx with os := s.rx.os + 1, cnt := 0 })

/-- R158, R159: the start-bit vote. -/
def Obligations.RxStartVoteCycle : Prop :=
  ∀ s : State, s.script = [] → s.tx.state.legal s.cfg.txParity = true → s.rx.state = .start → s.tick .rx = true →
    s.rx.os.toNat = 15 →
    ∃ t, step s = .next t ∧
      (winVote s.rx.win = false → t.rx = { s.rx with os := 0, state := .data, cnt := 0 }) ∧
      (winVote s.rx.win = true → t.rx = { s.rx with os := 0, state := .wait, cnt := 0 })

/-- R154, R160: the end of DATA, tested before the tick, and the vote of a data bit. -/
def Obligations.RxDataVoteCycle : Prop :=
  ∀ s : State, s.script = [] → s.tx.state.legal s.cfg.txParity = true → s.rx.state = .data →
    (s.rx.bitcnt.getLsbD 3 = true →
      ∃ t, step s = .next t ∧
        t.rx = { s.rx with state := if s.cfg.rxParity = true then .parity else .stop, cnt := counterAfter .rx s }) ∧
    (s.rx.bitcnt.getLsbD 3 = false → s.tick .rx = true → s.rx.os.toNat = 15 →
      ∃ t, step s = .next t ∧
        t.rx = { s.rx with
          acc := accWith (winVote s.rx.win) s.rx.acc, bitcnt := s.rx.bitcnt + 1, os := 0, cnt := 0 })

/-- R161: the parity vote assigns `rx_error_q` and delivers the byte, mismatch or not. -/
def Obligations.RxParityVoteCycle : Prop :=
  ∀ s : State, s.script = [] → s.tx.state.legal s.cfg.txParity = true → s.rx.state = .parity → s.cfg.rxParity = true →
    s.tick .rx = true → s.rx.os.toNat = 15 →
    ∃ t, step s = .next t ∧
      t.rx = { s.rx with
        errorQ := xor8 s.rx.acc ^^ winVote s.rx.win, buffQ := s.rx.acc, os := 0, state := .stop, cnt := 0 }

/-- R162: the stop vote ORs the framing error in, pulses `rx_rdy`, and delivers the byte where there is no parity. -/
def Obligations.RxStopVoteCycle : Prop :=
  ∀ s : State, s.script = [] → s.tx.state.legal s.cfg.txParity = true → s.rx.state = .stop → s.tick .rx = true →
    s.rx.os.toNat = 15 →
    ∃ t, step s = .next t ∧
      t.rx = { s.rx with
        errorQ := (if winVote s.rx.win = false then true else false) || s.rx.errorQ
        buffQ := if s.cfg.rxParity = true then s.rx.buffQ else s.rx.acc
        rdyQ := true, bitcnt := 0, os := 0, state := .wait, cnt := 0 }

/-- R191: with no host command pending, the table-driven step is the spec's transition function, on every state. -/
def Obligations.StepIsTheTransitionFunction : Prop :=
  ∀ s : State, s.script = [] → step s = transition s

/-- The invariants of R131 and R164 hold in the reset state, whatever the parameters and whatever the reset draws. -/
def Obligations.ResetMeetsTheInvariant : Prop :=
  ∀ (c : Config) (d : ResetDraws), c.wf = true → Inv (State.resetWith c d)

/-- Every step keeps the invariants of R131 and R164, with or without host commands pending. -/
def Obligations.StepKeepsTheInvariant : Prop :=
  ∀ s t : State, Inv s → step s = .next t → Inv t

/-- R210: from an invariant state a run goes on for ever, whatever the pins do; no fault of the model is ever raised. -/
def Obligations.RunsNeverStop : Prop :=
  ∀ (s : State) (ins : Nat → Pins) (n : Nat), Inv s → ∃ t, runPins ins s n = .next t ∧ Inv t

/-- R131: the transmitter's invariants in every state reachable from reset; DATA with eight bits sent lasts one cycle. -/
def Obligations.ReachableTransmitterStates : Prop :=
  ∀ (c : Config) (d : ResetDraws) (ins : Nat → Pins) (n : Nat) (t : State), c.wf = true →
    runPins ins (State.resetWith c d) n = .next t →
    (t.tx.state = .wait → t.tx.bitcnt = 0) ∧ t.tx.bitcnt.toNat ≤ 8 ∧
      (t.tx.state = .parity ∨ t.tx.state = .stop → t.tx.bitcnt = 8) ∧ (t.tx.state ≠ .wait → t.tx.rdyQ = false) ∧
      (t.tx.state = .data → t.tx.bitcnt = 8 →
        (∀ u, runPins ins (State.resetWith c d) (n + 1) = .next u → u.tx.state ≠ .data) ∧
        ∃ m u, n = m + 1 ∧ runPins ins (State.resetWith c d) m = .next u ∧ u.tx.state = .data ∧ u.tx.bitcnt = 7)

/-- R240: the reset values the spec fixes, for every value of the draws; each draw can be any value of its register. -/
def Obligations.ResetValues : Prop :=
  (∀ (c : Config) (d : ResetDraws),
    let s := State.resetWith c d
    s.tx.state = .wait ∧ s.tx.bitcnt = 0 ∧ s.tx.q = true ∧ s.tx.rdyQ = true ∧ s.rx.state = .wait ∧ s.rx.os = 0 ∧
      s.rx.bitcnt = 0 ∧ s.rx.rdyQ = false ∧ s.rx.errorQ = false) ∧
    ∀ (c : Config) (txCnt rxCnt : Nat) (shift acc buff : Byte) (par : Bool) (win : BitVec 3),
      txCnt < 2 ^ c.txCntW → rxCnt < 2 ^ c.rxCntW →
      ∃ d, let s := State.resetWith c d
        s.tx.cnt = txCnt ∧ s.tx.shift = shift ∧ s.tx.par = par ∧ s.rx.cnt = rxCnt ∧ s.rx.win = win ∧ s.rx.acc = acc ∧
          s.rx.buffQ = buff

/-- R24, R32: the only state changes there are, from every state, with or without host commands pending, each by the rule named;
`u` is the state with the levels that the step put on the pins. -/
def Obligations.OnlyTheListedTransitions : Prop :=
  ∀ s t : State, step s = .next t →
    let u := s.withPins t.pins
    (t.tx.state ≠ s.tx.state →
      (txCondition u .txWaitAccept ∧ t.tx.state = .data) ∨
      (txCondition u .txDataEnd ∧ t.tx.state = if s.cfg.txParity = true then .parity else .stop) ∨
      (txCondition u .txParityEmit ∧ t.tx.state = .stop) ∨ (txCondition u .txStopEmit ∧ t.tx.state = .wait)) ∧
    (t.rx.state ≠ s.rx.state →
      (rxCondition u .rxWaitDetect ∧ t.rx.state = .start) ∨
      (rxCondition u .rxStartConfirm ∧ t.rx.state = .data) ∨ (rxCondition u .rxStartReject ∧ t.rx.state = .wait) ∨
      (rxCondition u .rxDataDone ∧ t.rx.state = if s.cfg.rxParity = true then .parity else .stop) ∨
      (rxCondition u .rxParityCheck ∧ t.rx.state = .stop) ∨ (rxCondition u .rxStopEnd ∧ t.rx.state = .wait))

/-- R21, R60: the engines interact only through the divisor and an outside loop: the transmitter's next registers do not
depend on the receiver's registers or the line, the receiver's not on the transmitter's registers beyond what is on `rx`, nor
on the request. (The free draws of a cycle are named by drawCtr, log 6.) -/
def Obligations.EnginesShareOnlyTheDivisor : Prop :=
  ∀ s s' t t' : State, s.script = [] → s'.script = [] → s.cfg = s'.cfg → s.pins.divisor = s'.pins.divisor →
    s.drawCtr = s'.drawCtr → step s = .next t → step s' = .next t' →
    (s.tx = s'.tx → s.pins.txReq = s'.pins.txReq → s.pins.txBuff = s'.pins.txBuff → t.tx = t'.tx) ∧
      (s.rx = s'.rx → s.rxIn = s'.rxIn → t.rx = t'.rx)

/-- R133: a request while the transmitter is not in WAIT has no effect on any register, whatever byte comes with it. -/
def Obligations.BusyRequestHasNoEffect : Prop :=
  ∀ (s t : State) (p : Pins) (req : Bool) (b : Byte), s.tx.state ≠ .wait → step (s.withPins p) = .next t →
    ∃ t', step (s.withPins { p with txReq := req, txBuff := b }) = .next t' ∧ t'.tx = t.tx ∧ t'.rx = t.rx

/-- R132: the whole frame on `tx`, with `tx_state` and `tx_rdy`, after acceptance in cycle 0 at a constant divisor of 2 or more,
whatever is requested while the frame is under way, with no request once the transmitter is back in WAIT. -/
def Obligations.TxFrameTimeline : Prop :=
  ∀ (s : State) (ins : Nat → Pins) (D c : Nat), Inv s → s.tx.state = .wait → (ins 0).txReq = true → 2 ≤ D →
    (∀ k, (ins k).divisor.toNat = D) → (∀ k, txBusy s.cfg.txParity D < k → (ins k).txReq = false) → 1 ≤ c →
    ∃ t, runPins ins s c = .next t ∧ t.tx.q = lineBit s.cfg.txParity (ins 0).txBuff D c ∧
      t.tx.state = txStateAt s.cfg.txParity D c ∧ (t.tx.rdyQ = true ↔ txBusy s.cfg.txParity D + 2 ≤ c)

/-- R134: the frame at `divisor = 1` with parity: a tick in every cycle after acceptance; the eighth data bit lasts 2 cycles,
every other bit before the stop bit 1. -/
def Obligations.TxFrameAtDivisorOne : Prop :=
  ∀ (s : State) (ins : Nat → Pins), Inv s → s.cfg.txParity = true → s.tx.state = .wait → (ins 0).txReq = true →
    (∀ k, (ins k).divisor = 1) → (∀ k, 12 ≤ k → (ins k).txReq = false) →
    ∀ c, 1 ≤ c → ∃ t, runPins ins s c = .next t ∧ (t.withPins (ins c)).tick .tx = true ∧
      t.tx.q =
        if c = 1 then false
        else if c ≤ 8 then (ins 0).txBuff.getLsbD (c - 2)
        else if c ≤ 10 then (ins 0).txBuff.getLsbD 7
        else if c = 11 then xor8 (ins 0).txBuff
        else true

/-- R165: from a detected start whose start bit is voted 0, at a constant divisor with `R = divisor >> 4` of 2 or more, on any
line: the byte is the majority of the three samples of each bit; it shows, with the parity error, from cycle `160R + 1`, and
`rx_rdy` pulses in the cycle after the stop vote and not before; `rx_error` then holds R161's and R162's value. -/
def Obligations.ReceptionTimeline : Prop :=
  ∀ (s : State) (ins : Nat → Pins) (level : Nat → Bool) (R : Nat), Inv s → s.rx.state = .wait →
    (∀ k, (ins k).divisor.toNat / 16 = R) → 2 ≤ R →
    (∀ k u, runPins ins s k = .next u → (u.withPins (ins k)).rxIn = level k) →
    (s.withPins (ins 0)).detect = true → sampledBit level R 0 = false →
    let parity := s.cfg.rxParity
    let byte := sampledByte level R
    (parity = true →
      ∃ t, runPins ins s (160 * R + 1) = .next t ∧ t.rx.buffQ = byte ∧
        t.rx.errorQ = (xor8 byte ^^ sampledBit level R 9)) ∧
    (∃ t, runPins ins s (stopVote parity R + 1) = .next t ∧ t.rx.state = .wait ∧ t.rx.rdyQ = true ∧ t.rx.buffQ = byte ∧
      t.rx.errorQ =
        if parity then !sampledBit level R 10 || (xor8 byte ^^ sampledBit level R 9)
        else !sampledBit level R 9 || s.rx.errorQ) ∧
    ∀ c t, 1 ≤ c → c ≤ stopVote parity R → runPins ins s c = .next t → t.rx.rdyQ = false

/-- R159 on a line (E1 of R211): a start whose start bit is voted 1 is dropped without a trace: the receiver is back in WAIT
one bit period after detection, `rx_rdy` never rises, `rx_buff` and `rx_error` keep their values. -/
def Obligations.FalseStartIsNotReported : Prop :=
  ∀ (s : State) (ins : Nat → Pins) (level : Nat → Bool) (R : Nat), Inv s → s.rx.state = .wait →
    (∀ k, (ins k).divisor.toNat / 16 = R) → 2 ≤ R →
    (∀ k u, runPins ins s k = .next u → (u.withPins (ins k)).rxIn = level k) →
    (s.withPins (ins 0)).detect = true → sampledBit level R 0 = true →
    ∀ c, 1 ≤ c → c ≤ 16 * R + 1 →
      ∃ t, runPins ins s c = .next t ∧ t.rx.state = (if c ≤ 16 * R then .start else .wait) ∧ t.rx.rdyQ = false ∧
        t.rx.buffQ = s.rx.buffQ ∧ t.rx.errorQ = s.rx.errorQ

/-- R169: on an idle line no rule but RX.WAIT.IDLE fires and the receiver stays in WAIT; from the next cycle on `rx_rdy` is 0,
and no register but the counter changes. -/
def Obligations.IdleLineStability : Prop :=
  ∀ (s : State) (ins : Nat → Pins) (n : Nat), Inv s → s.rx.state = .wait →
    (∀ k u, runPins ins s k = .next u → (u.withPins (ins k)).rxIn = true) →
    (∃ t, runPins ins s (n + 1) = .next t ∧ t.rx = { s.rx with cnt := t.rx.cnt, rdyQ := false }) ∧
      ∀ m u, runPins ins s m = .next u → rxCondition (u.withPins (ins m)) .rxWaitIdle

/-- R168, the direction "if": with `tx` looped to `rx`, equal parity, both engines idle, a constant divisor of 32 or more with
`9R ≥ S r`, and no further request, the byte arrives with no error at the first `rx_rdy` pulse, in every phase of `rx_cnt`. -/
def Obligations.LoopbackRoundTrip : Prop :=
  ∀ (s : State) (ins : Nat → Pins) (D : Nat), Inv s → s.cfg.txParity = s.cfg.rxParity → s.tx.state = .wait →
    s.tx.q = true → s.rx.state = .wait → (s.cfg.rxParity = false → s.rx.errorQ = false) →
    (∀ k, (ins k).divisor.toNat = D ∧ (ins k).line = .loop) → (ins 0).txReq = true →
    (∀ k, 1 ≤ k → (ins k).txReq = false) → 32 ≤ D → frameSpan s.cfg.rxParity * (D % 16) ≤ 9 * (D / 16) →
    ∃ n t, n ≤ stopVote s.cfg.rxParity (D / 16) + 3 ∧ runPins ins s n = .next t ∧ t.rx.rdyQ = true ∧
      t.rx.buffQ = (ins 0).txBuff ∧ t.rx.errorQ = false ∧
      ∀ m u, 1 ≤ m → m < n → runPins ins s m = .next u → u.rx.rdyQ = false

/-- R168, the direction "only if": where `9R < S r`, the byte 0 detected one cycle after acceptance arrives with `rx_error = 1`. -/
def Obligations.LoopbackFailsPastTheBound : Prop :=
  ∀ (s : State) (ins : Nat → Pins) (D : Nat), Inv s → s.cfg.txParity = s.cfg.rxParity → s.tx.state = .wait →
    s.tx.q = true → s.rx.state = .wait → (∀ k, (ins k).divisor.toNat = D ∧ (ins k).line = .loop) →
    (ins 0).txReq = true → (ins 0).txBuff = 0 → (∀ k, 1 ≤ k → (ins k).txReq = false) → 32 ≤ D →
    9 * (D / 16) < frameSpan s.cfg.rxParity * (D % 16) →
    (∀ u, runPins ins s 1 = .next u → (u.withPins (ins 1)).detect = true) →
    ∃ t, runPins ins s (stopVote s.cfg.rxParity (D / 16) + 2) = .next t ∧ t.rx.rdyQ = true ∧ t.rx.errorQ = true

/-- R38: the receiver's three output registers drive their outputs and are written where R38 says and nowhere else. -/
def Obligations.RxOutputRegistersWrittenOnlyAtTheVotes : Prop :=
  ∀ s t : State, s.script = [] → step s = .next t →
    t.outputs.rxBuff = t.rx.buffQ ∧ t.outputs.rxRdy = t.rx.rdyQ ∧ t.outputs.rxError = t.rx.errorQ ∧
      (t.rx.buffQ ≠ s.rx.buffQ →
        (s.cfg.rxParity = true ∧ rxCondition s .rxParityCheck) ∨ (s.cfg.rxParity = false ∧ rxCondition s .rxStopEnd)) ∧
      (rxCondition s .rxStopEnd → t.rx.rdyQ = true) ∧ (s.rx.state = .wait → t.rx.rdyQ = false) ∧
      (t.rx.rdyQ ≠ s.rx.rdyQ → rxCondition s .rxStopEnd ∨ s.rx.state = .wait) ∧
      (t.rx.errorQ ≠ s.rx.errorQ → rxCondition s .rxParityCheck ∨ rxCondition s .rxStopEnd)

/-- R162, R255: `rx_rdy` is 1 exactly in the cycle after a stop vote, so for one cycle per completed frame, error or not. -/
def Obligations.RxReadyIsAOneCyclePulse : Prop :=
  ∀ s t : State, Inv s → s.script = [] → step s = .next t →
    (t.rx.rdyQ = true ↔ rxCondition s .rxStopEnd) ∧ (s.rx.rdyQ = true → t.rx.rdyQ = false)

/-- R214, the no-parity variant: over any run `rx_error` is the OR of the framing faults of its stop votes and of the value it
started from; nothing clears it. -/
def Obligations.FramingErrorsAccumulateWithoutParity : Prop :=
  ∀ (s : State) (ins : Nat → Pins) (n : Nat) (t : State), Inv s → s.cfg.rxParity = false → runPins ins s n = .next t →
    (t.rx.errorQ = true ↔
      s.rx.errorQ = true ∨
        ∃ c u, c < n ∧ runPins ins s c = .next u ∧ rxCondition (u.withPins (ins c)) .rxStopEnd ∧ winVote u.rx.win = false)

/-- R43: the draws of `tx_cnt`, `tx_shift`, `tx_par`, `rx_win` and `rx_acc` never reach an output: two runs from reset states
that differ only there show the same outputs in every cycle, whatever the pins do. -/
def Obligations.HiddenResetDrawsNeverReachAnOutput : Prop :=
  ∀ (c : Config) (d d' : ResetDraws) (ins : Nat → Pins) (n : Nat) (t t' : State), c.wf = true →
    d.rxCnt = d'.rxCnt → d.rxBuff = d'.rxBuff → runPins ins (State.resetWith c d) n = .next t →
    runPins ins (State.resetWith c d') n = .next t' → t.outputs = t'.outputs

/-- R199: in a quiescent state with the inputs held, the rules that fire are the WAIT idle rules and the BaudTicks', and the
next state is quiescent; once the idle outputs are up, only the counters change. -/
def Obligations.QuiescenceIsStable : Prop :=
  ∀ s : State, s.script = [] → s.quiescent = true →
    ∃ f t, fetch s = .ok f ∧ f.tx = .txWaitIdle ∧ f.rx = .rxWaitIdle ∧ step s = .next t ∧ t.quiescent = true ∧
      t.tx.q = true ∧ t.tx.rdyQ = true ∧ t.rx.rdyQ = false ∧
      (s.tx.q = true → s.tx.rdyQ = true → s.rx.rdyQ = false →
        t.tx = { s.tx with cnt := t.tx.cnt } ∧ t.rx = { s.rx with cnt := t.rx.cnt })

/-- R13, R14, R150, R166: the parity reduction is 1 exactly for an odd number of ones; the vote is the level of two of the three
samples, so one corrupted sample of three alike leaves it and two change it. -/
def Obligations.ReductionsAndNoiseTolerance : Prop :=
  (∀ b : Byte, xor8 b = true ↔ (wordBits 8 b.toNat).count true % 2 = 1) ∧
    (∀ a b c : Bool, maj3 a b c = true ↔ 2 ≤ [a, b, c].count true) ∧
    (∀ w : BitVec 3, winVote w = maj3 (w.getLsbD 0) (w.getLsbD 1) (w.getLsbD 2)) ∧
    ∀ v x : Bool, maj3 x v v = v ∧ maj3 v x v = v ∧ maj3 v v x = v ∧
      maj3 v (!v) (!v) = !v ∧ maj3 (!v) v (!v) = !v ∧ maj3 (!v) (!v) v = !v

/-- R70, R71: the bits of a frame in time order, and the even number of ones in data and parity. They are the bits the
transmitter puts on the line, one in each D cycles (`lineBit` is R132's line, which TxFrameTimeline states of `tx`), and the
ones FRAME puts there when it names neither a parity nor a stop bit (R89). -/
def Obligations.FrameFormat : Prop :=
  (∀ b : Byte,
    frameBits true b =
        [false, b.getLsbD 0, b.getLsbD 1, b.getLsbD 2, b.getLsbD 3, b.getLsbD 4, b.getLsbD 5, b.getLsbD 6, b.getLsbD 7,
          xor8 b, true] ∧
      frameBits false b =
        [false, b.getLsbD 0, b.getLsbD 1, b.getLsbD 2, b.getLsbD 3, b.getLsbD 4, b.getLsbD 5, b.getLsbD 6, b.getLsbD 7,
          true] ∧
      (((frameBits true b).take 10).count true) % 2 = 0) ∧
    (∀ (parity : Bool) (b : Byte), frameLevels parity b none true = frameBits parity b) ∧
    ∀ (parity : Bool) (b : Byte) (D c : Nat), 1 ≤ D → 1 ≤ c →
      (c ≤ txBusy parity D + D → (frameBits parity b)[(c - 1) / D]? = some (lineBit parity b D c)) ∧
        (txBusy parity D + D < c → lineBit parity b D c = true)

/-- R86, R87: the fields of the IN and OUT words; and R52, that OUT does not depend on the pins. -/
def Obligations.CycleWordsPackTheSignals : Prop :=
  (∀ s : State,
    s.inWord.extractLsb' 0 16 = s.pins.divisor ∧ s.inWord.extractLsb' 16 8 = s.pins.txBuff ∧
      s.inWord.getLsbD 24 = s.pins.txReq ∧ s.inWord.getLsbD 25 = s.rxIn) ∧
    (∀ (s : State) (w : BitVec 26), (s.withPins (Pins.ofWord w)).inWord = w) ∧
    ∀ (s : State) (p : Pins),
      s.outputs.word.getLsbD 0 = s.tx.q ∧ s.outputs.word.getLsbD 1 = s.tx.rdyQ ∧
        s.outputs.word.extractLsb' 2 8 = s.rx.buffQ ∧ s.outputs.word.getLsbD 10 = s.rx.rdyQ ∧
        s.outputs.word.getLsbD 11 = s.rx.errorQ ∧ (s.withPins p).outputs = s.outputs

/-- R39, R88: a step writes neither the divisor nor the parameters: with no host command pending the pins keep their levels
(log 3), and with any the parameters keep their values. -/
def Obligations.StepLeavesPinsAndParameters : Prop :=
  ∀ s t : State, step s = .next t → t.cfg = s.cfg ∧ (s.script = [] → t.pins = s.pins ∧ t.script = [])

/-- R89, R90, R91: what each directive and each input word puts on the pins and how many cycles it takes; the expansions SEND,
RECV and BREAKLINE; the outcome TIMEOUT (a refusal, log 13); and which commands leave a program ended (R199, log 20). That the
release of a REQ is left pending as an empty IDLE, and that an expanded directive is what runs, is the model's form (log 14). -/
def Obligations.DirectivesDriveThePins : Prop :=
  ∀ (s : State) (cs : List Cmd),
    let playing (x : List Cmd) : State := { s with script := x }
    let released (x : List Cmd) : State := { s with pins := { s.pins with txReq := false, txBuff := 0 }, script := x }
    let requesting (b : Byte) (x : List Cmd) : State :=
      { s with pins := { s.pins with txReq := true, txBuff := b }, script := x }
    (∀ n, step (playing (.div n :: cs)) = step { s with pins := { s.pins with divisor := n }, script := cs }) ∧
    (∀ l, step (playing (.line l :: cs)) = step { s with pins := { s.pins with line := l }, script := cs }) ∧
    (∀ b, step (playing (.req b :: cs)) = cycle (requesting b (.idle 0 :: cs))) ∧
    step (playing (.idle 0 :: cs)) = step (released cs) ∧
    (∀ n, step (playing (.idle (n + 1) :: cs)) = cycle (released (.idle n :: cs))) ∧
    (∀ o m, s.out o = true → step (playing (.untilOut o m :: cs)) = step (released cs)) ∧
    (∀ o, s.out o = false → step (playing (.untilOut o none :: cs)) = cycle (released (.untilOut o none :: cs))) ∧
    (∀ o k, s.out o = false →
      step (playing (.untilOut o (some (k + 1)) :: cs)) = cycle (released (.untilOut o (some k) :: cs))) ∧
    (∀ o, s.out o = false → step (playing (.untilOut o (some 0) :: cs)) = .refused .stimulusTimeout) ∧
    (∀ w, step (playing (.input 0 w :: cs)) = step (playing cs)) ∧
    (∀ n w, step (playing (.input (n + 1) w :: cs)) = cycle { s with pins := Pins.ofWord w, script := .input n w :: cs }) ∧
    (∀ parity b,
      (s.tx.rdyQ = true → step (playing ((Directive.send b).expand parity ++ cs)) = cycle (requesting b (.idle 0 :: cs))) ∧
      (s.tx.rdyQ = false →
        step (playing ((Directive.send b).expand parity ++ cs)) =
          cycle (released ((Directive.send b).expand parity ++ cs)))) ∧
    (∀ parity,
      (s.rx.rdyQ = true → step (playing (Directive.recv.expand parity ++ cs)) = step (released cs)) ∧
      (s.rx.rdyQ = false →
        step (playing (Directive.recv.expand parity ++ cs)) = cycle (released (Directive.recv.expand parity ++ cs)))) ∧
    (∀ parity k,
      step (playing ((Directive.breakLine (k + 1)).expand parity ++ cs)) =
          cycle
            { s with
              pins := { s.pins with txReq := false, txBuff := 0, line := .ext false }
              script := .idle k :: .line (.ext true) :: cs } ∧
        step (playing ((Directive.breakLine 0).expand parity ++ cs)) =
          step { s with pins := { s.pins with txReq := false, txBuff := 0, line := .ext true }, script := cs }) ∧
    (playing []).finished = true ∧
    (∀ n, (playing (.div n :: cs)).finished = (playing cs).finished) ∧
    (∀ l, (playing (.line l :: cs)).finished = (playing cs).finished) ∧
    (∀ b, (playing (.req b :: cs)).finished = false) ∧
    (∀ n, (playing (.idle n :: cs)).finished = (n == 0 && (playing cs).finished)) ∧
    (∀ o m, (playing (.untilOut o m :: cs)).finished = (s.out o && (playing cs).finished)) ∧
    (∀ n w, (playing (.input n w :: cs)).finished = (n == 0 && (playing cs).finished)) ∧
    ∀ n, (playing cs).finished = true →
      (playing cs).play n = { words := [], outs := [], stop := .ended, final := playing cs }

/-- R89, FRAME: from an invariant state, the line shows each bit of the frame for k cycles, with `tx_req` 0 throughout, and is 1
after the stop bit's k cycles, for as long as an IDLE lasts. -/
def Obligations.FrameDirectiveDrivesTheLine : Prop :=
  ∀ (s : State) (parity : Bool) (b : Byte) (k : Nat) (par : Option Bool) (stop : Bool) (cs : List Cmd), Inv s →
    let levels := [false, b.getLsbD 0, b.getLsbD 1, b.getLsbD 2, b.getLsbD 3, b.getLsbD 4, b.getLsbD 5, b.getLsbD 6,
      b.getLsbD 7] ++ (if parity = true then [par.getD (xor8 b)] else []) ++ [stop]
    let frame := levels.flatMap (fun l => List.replicate k l)
    let words (n : Nat) (rest : List Cmd) :=
      inputTrace n { s with script := (Directive.frame b k par stop).expand parity ++ rest }
    (words (levels.length * k) cs).map (fun w => w.getLsbD 25) = frame ∧
      (∀ w ∈ words (levels.length * k) cs, w.getLsbD 24 = false) ∧
      ∀ n, (words (levels.length * k + n) (.idle n :: cs)).map (fun w => w.getLsbD 25) = frame ++ List.replicate n true ∧
        ∀ w ∈ words (levels.length * k + n) (.idle n :: cs), w.getLsbD 24 = false
end

