-- ==== Sys2Proof/Laws/State.lean ====
section
/-! SUPPORT. Laws/State.lean: one lemma per field per update of State, so that no proof unfolds a record update. -/

namespace Sys2Proof.Machine

section Updates
variable (s : State)

@[simp] theorem withTx_tx (r : TxRegs) : (s.withTx r).tx = r := rfl
@[simp] theorem withTx_rx (r : TxRegs) : (s.withTx r).rx = s.rx := rfl
@[simp] theorem withTx_cfg (r : TxRegs) : (s.withTx r).cfg = s.cfg := rfl
@[simp] theorem withTx_pins (r : TxRegs) : (s.withTx r).pins = s.pins := rfl
@[simp] theorem withTx_script (r : TxRegs) : (s.withTx r).script = s.script := rfl
@[simp] theorem withTx_drawCtr (r : TxRegs) : (s.withTx r).drawCtr = s.drawCtr := rfl

@[simp] theorem withRx_rx (r : RxRegs) : (s.withRx r).rx = r := rfl
@[simp] theorem withRx_tx (r : RxRegs) : (s.withRx r).tx = s.tx := rfl
@[simp] theorem withRx_cfg (r : RxRegs) : (s.withRx r).cfg = s.cfg := rfl
@[simp] theorem withRx_pins (r : RxRegs) : (s.withRx r).pins = s.pins := rfl
@[simp] theorem withRx_script (r : RxRegs) : (s.withRx r).script = s.script := rfl
@[simp] theorem withRx_drawCtr (r : RxRegs) : (s.withRx r).drawCtr = s.drawCtr := rfl

@[simp] theorem withPins_pins (p : Pins) : (s.withPins p).pins = p := rfl
@[simp] theorem withPins_script (p : Pins) : (s.withPins p).script = [] := rfl
@[simp] theorem withPins_tx (p : Pins) : (s.withPins p).tx = s.tx := rfl
@[simp] theorem withPins_rx (p : Pins) : (s.withPins p).rx = s.rx := rfl
@[simp] theorem withPins_cfg (p : Pins) : (s.withPins p).cfg = s.cfg := rfl
@[simp] theorem withPins_drawCtr (p : Pins) : (s.withPins p).drawCtr = s.drawCtr := rfl
@[simp] theorem withPins_withPins (p q : Pins) : (s.withPins p).withPins q = s.withPins q := rfl

@[simp] theorem release_tx : s.release.tx = s.tx := rfl
@[simp] theorem release_rx : s.release.rx = s.rx := rfl
@[simp] theorem release_cfg : s.release.cfg = s.cfg := rfl
@[simp] theorem release_script : s.release.script = s.script := rfl
@[simp] theorem release_drawCtr : s.release.drawCtr = s.drawCtr := rfl
@[simp] theorem release_txReq : s.release.pins.txReq = false := rfl
@[simp] theorem release_txBuff : s.release.pins.txBuff = 0 := rfl
@[simp] theorem release_divisor : s.release.pins.divisor = s.pins.divisor := rfl
@[simp] theorem release_line : s.release.pins.line = s.pins.line := rfl

@[simp] theorem setCnt_tx_tx (v : Nat) : (s.setCnt .tx v).tx = { s.tx with cnt := v } := rfl
@[simp] theorem setCnt_tx_rx (v : Nat) : (s.setCnt .tx v).rx = s.rx := rfl
@[simp] theorem setCnt_rx_rx (v : Nat) : (s.setCnt .rx v).rx = { s.rx with cnt := v } := rfl
@[simp] theorem setCnt_rx_tx (v : Nat) : (s.setCnt .rx v).tx = s.tx := rfl
@[simp] theorem setCnt_cnt (n : BaudInst) (v : Nat) : (s.setCnt n v).cnt n = v := by cases n <;> rfl
@[simp] theorem setCnt_cfg (n : BaudInst) (v : Nat) : (s.setCnt n v).cfg = s.cfg := by cases n <;> rfl
@[simp] theorem setCnt_pins (n : BaudInst) (v : Nat) : (s.setCnt n v).pins = s.pins := by cases n <;> rfl
@[simp] theorem setCnt_script (n : BaudInst) (v : Nat) : (s.setCnt n v).script = s.script := by cases n <;> rfl
@[simp] theorem setCnt_drawCtr (n : BaudInst) (v : Nat) : (s.setCnt n v).drawCtr = s.drawCtr := by cases n <;> rfl

@[simp] theorem commit_tx (a b c d : State) : (commit s a b c d).tx = { a.tx with cnt := c.tx.cnt } := rfl
@[simp] theorem commit_rx (a b c d : State) : (commit s a b c d).rx = { b.rx with cnt := d.rx.cnt } := rfl
@[simp] theorem commit_cfg (a b c d : State) : (commit s a b c d).cfg = s.cfg := rfl
@[simp] theorem commit_pins (a b c d : State) : (commit s a b c d).pins = s.pins := rfl
@[simp] theorem commit_script (a b c d : State) : (commit s a b c d).script = s.script := rfl
@[simp] theorem commit_drawCtr (a b c d : State) : (commit s a b c d).drawCtr = s.drawCtr + 1 := rfl

end Updates

section Reset
variable (c : Config) (d : ResetDraws)

@[simp] theorem resetWith_cfg : (State.resetWith c d).cfg = c := rfl
@[simp] theorem resetWith_script : (State.resetWith c d).script = [] := rfl
@[simp] theorem resetWith_drawCtr : (State.resetWith c d).drawCtr = 0 := rfl
@[simp] theorem resetWith_tx_state : (State.resetWith c d).tx.state = .wait := rfl
@[simp] theorem resetWith_rx_state : (State.resetWith c d).rx.state = .wait := rfl

end Reset

section Codes

/-- R76: the codes name the states one to one. -/
@[simp] theorem TxState.ofCode_code (t : TxState) : TxState.ofCode t.code = t := by cases t <;> rfl

/-- R77: the codes name the states and the reserved values one to one. -/
@[simp] theorem RxState.ofCode_code (r : RxState) : RxState.ofCode r.code = r := by cases r <;> rfl

theorem TxState.code_ofCode : ∀ c : BitVec 2, (TxState.ofCode c).code = c := by decide

theorem RxState.code_ofCode : ∀ c : BitVec 3, (RxState.ofCode c).code = c := by decide

end Codes

section Outcomes

@[simp] theorem andThen_next (s : State) (k : State → Result) : andThen (.next s) k = k s := rfl
@[simp] theorem andThen_fault (r : Fault) (k : State → Result) : andThen (.fault r) k = .fault r := rfl
@[simp] theorem andThen_refused (r : Refusal) (k : State → Result) : andThen (.refused r) k = .refused r := rfl

/-- A sequence answers a next state exactly when both parts do. -/
theorem andThen_eq_next {o : Result} {k : State → Result} {t : State} :
    andThen o k = .next t ↔ ∃ s, o = .next s ∧ k s = .next t := by
  cases o <;> simp

end Outcomes

end Sys2Proof.Machine
end

