-- ==== Sys2Proof/Laws/Operands.lean ====
section
/-! SUPPORT. Laws/Operands.lean: what the combinational values and the small operations answer. -/

namespace Sys2Proof.Machine

/-- R101: with a target, the pulse is the integer comparison. -/
theorem tick_of_target {n : BaudInst} {s : State} (h : s.target n ≠ 0) :
    s.tick n = (s.cnt n + 1 == s.target n) := by
  simp [State.tick, h]

/-- R104: without one, the pulse is this cycle's free draw. -/
theorem tick_of_no_target {n : BaudInst} {s : State} (h : s.target n = 0) :
    s.tick n = Config.tickDraw n s.drawCtr := by
  simp [State.tick, h]

/-- R80: `hit` is the pulse of a BaudTick that has a target. -/
theorem hit_eq_tick {n : BaudInst} {s : State} (h : s.target n ≠ 0) : s.hit n = s.tick n := by
  simp [State.hit, tick_of_target h, h]

/-- R75: the receiver's target. -/
theorem target_rx (s : State) : s.target .rx = s.pins.divisor.toNat / 16 := by
  simp [State.target, BitVec.toNat_ushiftRight, Nat.shiftRight_eq_div_pow]

theorem target_tx (s : State) : s.target .tx = s.pins.divisor.toNat := rfl

theorem target_rx_lt (s : State) : s.target .rx < 4096 := by
  have := s.pins.divisor.isLt
  rw [target_rx]
  omega

theorem target_tx_lt (s : State) : s.target .tx < 65536 := s.pins.divisor.isLt

/-- R79: no state gives `samp` and `last` together. -/
theorem samp_last (s : State) : (s.samp && s.last) = false := by
  unfold State.samp State.last
  generalize s.rx.os = os
  revert os
  decide

/-- R79: `ddone` needs state DATA. -/
theorem ddone_state {s : State} (h : s.ddone = true) : s.rx.state = .data := by
  simp [State.ddone] at h
  exact h.1

/-- R79: the sampling ticks. -/
theorem samp_iff (s : State) : s.samp = true ↔ 7 ≤ s.rx.os.toNat ∧ s.rx.os.toNat ≤ 9 := by
  unfold State.samp
  generalize s.rx.os = os
  revert os
  decide

/-- R79: the vote tick. -/
theorem last_iff (s : State) : s.last = true ↔ s.rx.os.toNat = 15 := by
  unfold State.last
  generalize s.rx.os = os
  revert os
  decide

/-- R151: the start condition. -/
theorem edge_iff (s : State) : s.edge = true ↔ s.rxIn = false ∧ (s.rx.cnt ≠ 0 ∨ s.cfg.rxEdgeQualified = false) := by
  simp [State.edge, State.qual]

/-- R106, R122: what restarts the transmitter's BaudTick. -/
theorem restart_tx_iff (s : State) : s.restart .tx = true ↔ s.tx.state = .wait ∧ s.pins.txReq = true := by
  simp [State.restart, State.accept]

/-- R106, R153: what restarts the receiver's BaudTick. -/
theorem restart_rx_iff (s : State) : s.restart .rx = true ↔ s.rx.state = .wait ∧ s.edge = true := by
  simp [State.restart, State.detect]

/-- R28, R37: bit 3 of a counter that holds 8 at most is set exactly at 8. -/
theorem bit3_of_le {c : Nibble} (h : c.toNat ≤ 8) : c.getLsbD 3 = true ↔ c = 8#4 := by
  revert c
  decide

/-- Below 8 an increment stays in range. -/
theorem succ_le_of_bit3 {c : Nibble} (h : c.toNat ≤ 8) (hb : c.getLsbD 3 = false) : (c + 1).toNat ≤ 8 := by
  revert c
  decide

/-- R14. -/
theorem maj3_true {a b c : Bool} : maj3 a b c = true ↔ (a = true ∧ b = true) ∨ (b = true ∧ c = true) ∨ (a = true ∧ c = true) := by
  cases a <;> cases b <;> cases c <;> decide

/-- R157: the sample at 7, 8 or 9 lands in bit 0, 1 or 2 and no other bit moves. -/
theorem insertBit_getLsbD (w : BitVec 3) (b : Bool) :
    ∀ k < 3, ∀ j < 3, (insertBit w k b).getLsbD j = if j = k then b else w.getLsbD j := by
  revert w b
  decide

theorem shiftIn_getLsbD (v : Bool) (acc : Byte) (j : Nat) (h : j < 8) :
    (shiftIn v acc).getLsbD j = if j = 7 then v else acc.getLsbD (j + 1) := by
  have h8 : j = 0 ∨ j = 1 ∨ j = 2 ∨ j = 3 ∨ j = 4 ∨ j = 5 ∨ j = 6 ∨ j = 7 := by omega
  rcases h8 with rfl | rfl | rfl | rfl | rfl | rfl | rfl | rfl <;>
    simp [shiftIn]

theorem shiftOut_getLsbD (b : Byte) (j : Nat) : (shiftOut b).getLsbD j = b.getLsbD (j + 1) := by
  simp [shiftOut, BitVec.getLsbD_ushiftRight, Nat.add_comm]

theorem incCnt_lt (w c : Nat) : incCnt w c < 2 ^ w := Nat.mod_lt _ (Nat.two_pow_pos w)

theorem incCnt_of_lt {w c : Nat} (h : c + 1 < 2 ^ w) : incCnt w c = c + 1 := Nat.mod_eq_of_lt h

end Sys2Proof.Machine
end

