-- ==== Sys2Proof/Laws/Fetch.lean ====
section
/-! SUPPORT. Laws/Fetch.lean: the rule each selector word picks, as the condition column of 30_encoding.md R81 to R83 words it. Later proofs cite fetch_eq and never unfold the decoder. -/

namespace Sys2Proof.Machine

/-- The condition column of R81. -/
def State.txChoice (s : State) : Instr :=
  match s.tx.state with
  | .wait => if s.pins.txReq then .txWaitAccept else .txWaitIdle
  | .data =>
    if s.tx.bitcnt.getLsbD 3 then .txDataEnd else if s.tick .tx then .txDataShift else .txDataHold
  | .parity => if s.tick .tx then .txParityEmit else .txParityHold
  | .stop => if s.tick .tx then .txStopEmit else .txStopHold

/-- The part of R82 the four oversampling states share: everything but the vote tick. -/
def State.ovsChoice (s : State) (atVote : Instr) : Instr :=
  if s.tick .rx then if s.samp then .rxOvsSample else if s.last then atVote else .rxOvsCount else .rxOvsHold

/-- The condition column of R82. -/
def State.rxChoice (s : State) : Instr :=
  match s.rx.state with
  | .wait => if s.edge then .rxWaitDetect else .rxWaitIdle
  | .reserved001 => .rxIllegal001
  | .reserved010 => .rxIllegal01X
  | .reserved011 => .rxIllegal01X
  | .start => s.ovsChoice (if s.vote then .rxStartReject else .rxStartConfirm)
  | .data => if s.rx.bitcnt.getLsbD 3 then .rxDataDone else s.ovsChoice .rxDataBit
  | .parity => s.ovsChoice .rxParityCheck
  | .stop => s.ovsChoice .rxStopEnd

/-- The condition column of R83. -/
def State.baudChoice (n : BaudInst) (s : State) : Instr :=
  if s.restart n then .baudRestart n
  else if s.target n = 0 then .baudDraw n
  else if s.tick n then .baudWrap n
  else .baudInc n

theorem decode_txSel (s : State) : decodeBits .txsel s.txSel = .ok s.txChoice := by
  unfold State.txSel State.txChoice
  generalize s.tick .tx = k
  generalize s.tx.bitcnt.getLsbD 3 = f
  cases s.tx.state <;> cases s.pins.txReq <;> cases k <;> cases f <;> rfl

theorem decode_rxSel (s : State) : decodeBits .rxsel s.rxSel = .ok s.rxChoice := by
  have hsl := samp_last s
  unfold State.rxSel State.rxChoice State.ovsChoice State.ddone
  generalize s.tick .rx = k
  generalize s.rx.bitcnt.getLsbD 3 = f
  generalize s.edge = e
  generalize s.vote = v
  revert hsl
  generalize s.samp = p
  generalize s.last = l
  intro hsl
  cases s.rx.state <;> cases k <;> cases f <;> cases e <;> cases v <;> cases p <;> cases l <;>
    first | rfl | exact absurd hsl (by decide)

theorem decode_bSel (n : BaudInst) (s : State) : decodeBits (.bsel n) (s.bSel n) = .ok (s.baudChoice n) := by
  unfold State.bSel State.baudChoice
  by_cases h : s.target n = 0
  · simp only [State.hit, h]
    cases s.restart n <;> cases n <;> simp <;> rfl
  · rw [hit_eq_tick h, beq_eq_false_iff_ne.mpr h, if_neg h]
    cases s.restart n <;> cases s.tick n <;> cases n <;> simp <;> rfl

/-- R84: every state's words pick one rule each; no word is without a row. -/
theorem fetch_eq (s : State) :
    fetch s =
      .ok { tx := s.txChoice, rx := s.rxChoice, txBaud := s.baudChoice .tx, rxBaud := s.baudChoice .rx } := by
  simp [fetch, decode_txSel, decode_rxSel, decode_bSel]

end Sys2Proof.Machine
end

