-- ==== Sys2Proof/Laws/Cycle.lean ====
section
/-! SUPPORT. Laws/Cycle.lean: everything a cycle and a step can do. Later proofs cite cycle_eq_next and step_eq_cycle and never unfold cycle. -/

namespace Sys2Proof.Machine

/-- R191, pass 2: a counter's next value. -/
def State.nextCnt (n : BaudInst) (s : State) : Nat :=
  if s.restart n || s.tick n then 0 else incCnt (s.cntW n) (s.cnt n)

/-- The BaudTick rules together (R102 to R105): whichever fires, the counter takes its next value and nothing else changes. -/
theorem exec_baudChoice (n : BaudInst) (s : State) :
    exec (s.baudChoice n) s = .next (s.setCnt n (s.nextCnt n)) := by
  unfold State.baudChoice State.nextCnt
  by_cases hT : s.target n = 0
  · cases hr : s.restart n <;>
      simp [hT, tick_of_no_target hT, exec, execBaudRestart, execBaudDraw]
  · cases hr : s.restart n <;> cases ht : s.tick n <;>
      simp [hT, exec, execBaudRestart, execBaudWrap, execBaudInc]

theorem cycle_eq (s : State) :
    cycle s =
      andThen (exec s.txChoice s) fun a =>
        andThen (exec s.rxChoice s) fun b =>
          .next (commit s a b (s.setCnt .tx (s.nextCnt .tx)) (s.setCnt .rx (s.nextCnt .rx))) := by
  simp [cycle, fetch_eq, exec_baudChoice]

/-- All that a cycle can answer as a next state. -/
theorem cycle_eq_next {s t : State} :
    cycle s = .next t ↔
      ∃ a b, exec s.txChoice s = .next a ∧ exec s.rxChoice s = .next b ∧
        t =
          { s with
            tx := { a.tx with cnt := s.nextCnt .tx }
            rx := { b.rx with cnt := s.nextCnt .rx }
            drawCtr := s.drawCtr + 1 } := by
  rw [cycle_eq, andThen_eq_next]
  constructor
  · rintro ⟨a, ha, hb⟩
    obtain ⟨b, hb, ht⟩ := andThen_eq_next.mp hb
    exact ⟨a, b, ha, hb, by simpa [commit] using ht.symm⟩
  · rintro ⟨a, b, ha, hb, rfl⟩
    exact ⟨a, ha, by simp [hb, commit]⟩

/-- The transmitter's rule answers a next state from every legal state, and touches TX registers only. -/
theorem exec_txChoice (s : State) (h : s.tx.state.legal s.cfg.txParity = true) :
    ∃ a, exec s.txChoice s = .next a ∧ a.rx = s.rx ∧ a.cfg = s.cfg ∧ a.pins = s.pins ∧ a.script = s.script := by
  unfold State.txChoice
  cases hs : s.tx.state <;> rw [hs] at h
  case wait =>
    cases s.pins.txReq <;> simp [exec, execTxWaitIdle, execTxWaitAccept]
  case data =>
    cases s.tx.bitcnt.getLsbD 3 <;> cases s.tick .tx <;> simp [exec, execTxDataEnd, execTxDataShift, execTxDataHold]
  case parity =>
    have h : s.cfg.txParity = true := h
    cases s.tick .tx <;> simp [exec, execTxParityEmit, execTxParityHold, txParityOnly, h]
  case stop =>
    cases s.tick .tx <;> simp [exec, execTxStopEmit, execTxStopHold]

/-- From a legal state no RX.OVS rule stops. -/
theorem rxLegal_of_legal {s : State} (h : s.rx.state.legal s.cfg.rxParity = true) (r : Result) : rxLegal s r = r := by
  unfold rxLegal State.rxParityIllegal
  cases hs : s.rx.state <;> simp_all [RxState.legal]

/-- The four oversampling states share HOLD, COUNT and SAMPLE; the vote is the state's own. -/
theorem exec_ovsChoice {s : State} (h : s.rx.state.legal s.cfg.rxParity = true) (v : Instr) :
    exec (s.ovsChoice v) s =
      if s.tick .rx then
        if s.samp then .next (s.withRx { s.rx with win := winSample s.rx.win s.rx.os s.rxIn, os := s.rx.os + 1 })
        else if s.last then exec v s
        else .next (s.withRx { s.rx with os := s.rx.os + 1 })
      else .next s := by
  unfold State.ovsChoice
  cases s.tick .rx <;> cases s.samp <;> cases s.last <;>
    simp [exec, execRxOvsHold, execRxOvsCount, execRxOvsSample, rxLegal_of_legal h]

/-- The receiver's rule answers a next state from every legal state, and touches RX registers only. -/
theorem exec_rxChoice (s : State) (h : s.rx.state.legal s.cfg.rxParity = true) :
    ∃ b, exec s.rxChoice s = .next b ∧ b.tx = s.tx ∧ b.cfg = s.cfg ∧ b.pins = s.pins ∧ b.script = s.script := by
  unfold State.rxChoice
  cases hs : s.rx.state
  case wait =>
    cases s.edge <;> simp [exec, execRxWaitIdle, execRxWaitDetect]
  case start =>
    rw [exec_ovsChoice h]
    cases s.tick .rx <;> cases s.samp <;> cases s.last <;> cases s.vote <;>
      simp [exec, execRxStartConfirm, execRxStartReject]
  case data =>
    simp only
    rw [show exec (if s.rx.bitcnt.getLsbD 3 then Instr.rxDataDone else s.ovsChoice .rxDataBit) s =
      (if s.rx.bitcnt.getLsbD 3 then exec .rxDataDone s else exec (s.ovsChoice .rxDataBit) s) by split <;> rfl,
      exec_ovsChoice h]
    cases s.rx.bitcnt.getLsbD 3 <;> cases s.tick .rx <;> cases s.samp <;> cases s.last <;>
      simp [exec, execRxDataDone, execRxDataBit]
  case parity =>
    rw [exec_ovsChoice h]
    have hp : s.cfg.rxParity = true := by rw [hs] at h; exact h
    cases s.tick .rx <;> cases s.samp <;> cases s.last <;> simp [exec, execRxParityCheck, hp]
  case stop =>
    rw [exec_ovsChoice h]
    cases s.tick .rx <;> cases s.samp <;> cases s.last <;> simp [exec, execRxStopEnd]
  all_goals rw [hs] at h; simp [RxState.legal] at h

/-- No cycle touches the parameters, the pins or the pending commands. -/
theorem cycle_keeps {s t : State} (h : cycle s = .next t) :
    t.cfg = s.cfg ∧ t.pins = s.pins ∧ t.script = s.script ∧ t.drawCtr = s.drawCtr + 1 := by
  obtain ⟨a, b, -, -, rfl⟩ := cycle_eq_next.mp h
  exact ⟨rfl, rfl, rfl, rfl⟩

/-- With no command pending, a step is a cycle on the levels the pins hold. -/
theorem step_eq_cycle {s : State} (h : s.script = []) : step s = cycle s := by
  have hs : ({ s with script := [] } : State) = s := by cases s; simp_all
  simp [step, h, drive, hs]

theorem step_withPins (s : State) (p : Pins) : step (s.withPins p) = cycle (s.withPins p) :=
  step_eq_cycle rfl

theorem runPins_zero (ins : Nat → Pins) (s : State) : runPins ins s 0 = .next s := rfl

theorem runPins_succ (ins : Nat → Pins) (s : State) (n : Nat) :
    runPins ins s (n + 1) = andThen (runPins ins s n) fun t => cycle (t.withPins (ins n)) := rfl

/-- Driving the pins moves no register and no parameter. -/
theorem drive_keeps : ∀ {cs : List Cmd} {s t : State}, drive cs s = some t →
    t.tx = s.tx ∧ t.rx = s.rx ∧ t.cfg = s.cfg ∧ t.drawCtr = s.drawCtr := by
  intro cs
  induction cs with
  | nil => intro s t h; simp [drive] at h; subst h; simp
  | cons c cs ih =>
    intro s t h
    cases c with
    | div n => have hk := ih h; exact hk
    | line l => have hk := ih h; exact hk
    | req b => simp [drive] at h; subst h; simp
    | idle n =>
      cases n with
      | zero => have hk := ih h; exact hk
      | succ n => simp [drive] at h; subst h; simp
    | untilOut o m =>
      simp only [drive] at h
      split at h
      · have hk := ih h; exact hk
      · cases m with
        | none => simp at h; subst h; simp
        | some k =>
          cases k with
          | zero => simp at h
          | succ k => simp at h; subst h; simp
    | input n w =>
      cases n with
      | zero => have hk := ih h; exact hk
      | succ n => simp [drive] at h; subst h; simp

end Sys2Proof.Machine
end

