-- ==== Sys2Proof/Laws/PerInstr.lean ====
section
/-! SUPPORT. Laws/PerInstr.lean: a fact about every row as syntax: its word lies in its table's width, has no bit outside its mask, and is a row of the table that word belongs to. -/

namespace Sys2Proof.Laws.WordShape

/-- The row of an instruction is in its table, its word fits the table's width, and the word's bits lie inside the mask. -/
def Statement (i : Instr) : Prop :=
  (⟨i.mask, encode i, i⟩ : Row) ∈ i.table.rows ∧ encode i < 2 ^ i.table.width ∧ i.mask < 2 ^ i.table.width ∧
    encode i &&& i.mask = encode i

theorem txWaitIdle : Statement .txWaitIdle := by unfold Statement; decide
theorem txWaitAccept : Statement .txWaitAccept := by unfold Statement; decide
theorem txDataEnd : Statement .txDataEnd := by unfold Statement; decide
theorem txDataShift : Statement .txDataShift := by unfold Statement; decide
theorem txDataHold : Statement .txDataHold := by unfold Statement; decide
theorem txParityEmit : Statement .txParityEmit := by unfold Statement; decide
theorem txParityHold : Statement .txParityHold := by unfold Statement; decide
theorem txStopEmit : Statement .txStopEmit := by unfold Statement; decide
theorem txStopHold : Statement .txStopHold := by unfold Statement; decide
theorem rxWaitIdle : Statement .rxWaitIdle := by unfold Statement; decide
theorem rxWaitDetect : Statement .rxWaitDetect := by unfold Statement; decide
theorem rxDataDone : Statement .rxDataDone := by unfold Statement; decide
theorem rxOvsHold : Statement .rxOvsHold := by unfold Statement; decide
theorem rxOvsCount : Statement .rxOvsCount := by unfold Statement; decide
theorem rxOvsSample : Statement .rxOvsSample := by unfold Statement; decide
theorem rxStartConfirm : Statement .rxStartConfirm := by unfold Statement; decide
theorem rxStartReject : Statement .rxStartReject := by unfold Statement; decide
theorem rxDataBit : Statement .rxDataBit := by unfold Statement; decide
theorem rxParityCheck : Statement .rxParityCheck := by unfold Statement; decide
theorem rxStopEnd : Statement .rxStopEnd := by unfold Statement; decide
theorem rxIllegal001 : Statement .rxIllegal001 := by unfold Statement; decide
theorem rxIllegal01X : Statement .rxIllegal01X := by unfold Statement; decide
theorem baudRestart (n : BaudInst) : Statement (.baudRestart n) := by cases n <;> (unfold Statement; decide)
theorem baudWrap (n : BaudInst) : Statement (.baudWrap n) := by cases n <;> (unfold Statement; decide)
theorem baudDraw (n : BaudInst) : Statement (.baudDraw n) := by cases n <;> (unfold Statement; decide)
theorem baudInc (n : BaudInst) : Statement (.baudInc n) := by cases n <;> (unfold Statement; decide)

end Sys2Proof.Laws.WordShape
end

