-- ==== Sys2Proof/Laws/Stimulus.lean ====
section
/-! SUPPORT. Laws/Stimulus.lean: driving the pins looks at the commands it is given, never at the ones the state still holds. -/

namespace Sys2Proof.Machine

/-- The pending commands a state holds do not matter to the driving of others. -/
theorem drive_script : ∀ (cs : List Cmd) (s : State) (x : List Cmd), drive cs { s with script := x } = drive cs s := by
  intro cs
  induction cs with
  | nil => intro s x; rfl
  | cons c cs ih =>
    intro s x
    cases c with
    | div n => exact ih { s with pins := { s.pins with divisor := n } } x
    | line l => exact ih { s with pins := { s.pins with line := l } } x
    | req b => rfl
    | idle n =>
      cases n with
      | zero => exact ih s.release x
      | succ n => rfl
    | untilOut o m =>
      have hr := ih s.release x
      have ho : ({ s with script := x } : State).out o = s.out o := by cases o <;> rfl
      simp only [drive, ho]
      split
      · exact hr
      · rcases m with _ | _ | k <;> rfl
    | input n w =>
      cases n with
      | zero => exact ih s x
      | succ n => rfl

/-- A step is the driving of its own commands, then a cycle. -/
theorem step_eq_of_drive {s t : State} (h : drive s.script s = some t) : step s = cycle t := by
  simp [step, h]

end Sys2Proof.Machine
end

