-- ==== Sys2Proof/Laws/Run.lean ====
section
/-! SUPPORT. Laws/Run.lean: where a program's run ends, and that its encoding (30_encoding.md R91) replays it. -/

namespace Sys2Proof.Machine

section Fields
variable (r : Run) (w : BitVec 26) (o : BitVec 12) (k : RunStop) (s : State)

@[simp] theorem after_words : (r.after w o).words = w :: r.words := rfl
@[simp] theorem after_outs : (r.after w o).outs = o :: r.outs := rfl
@[simp] theorem after_stop : (r.after w o).stop = r.stop := rfl
@[simp] theorem after_final : (r.after w o).final = r.final := rfl
@[simp] theorem still_words : (Run.still k s).words = [] := rfl
@[simp] theorem still_outs : (Run.still k s).outs = [] := rfl
@[simp] theorem still_stop : (Run.still k s).stop = k := rfl
@[simp] theorem still_final : (Run.still k s).final = s := rfl

end Fields

theorem out_of_regs {s t : State} (htx : t.tx = s.tx) (hrx : t.rx = s.rx) (o : OutSel) : t.out o = s.out o := by
  cases o <;> simp [State.out, htx, hrx]

/-- Whether commands take a further cycle depends on the registers alone, not on the pins or on other commands. -/
theorem exhausted_of_regs (cs : List Cmd) {s t : State} (htx : t.tx = s.tx) (hrx : t.rx = s.rx) :
    exhausted cs s = exhausted cs t := by
  induction cs with
  | nil => rfl
  | cons c cs ih =>
    cases c with
    | idle n => cases n <;> first | exact ih | rfl
    | input n w => cases n <;> first | exact ih | rfl
    | untilOut o m => simp only [exhausted, ih, out_of_regs htx hrx]
    | div n => exact ih
    | line l => exact ih
    | req b => rfl

/-- Commands that take no cycle only move pins, and leave no command. -/
theorem drive_of_exhausted : ∀ {cs : List Cmd} {s : State}, exhausted cs s = true →
    ∃ t, drive cs s = some t ∧ t.script = [] := by
  intro cs
  induction cs with
  | nil => intro s _; exact ⟨_, rfl, rfl⟩
  | cons c cs ih =>
    intro s h
    have moved : ∀ p : Pins, exhausted cs s = exhausted cs { s with pins := p } := fun p => exhausted_of_regs cs rfl rfl
    cases c with
    | div n => exact ih ((moved _).symm.trans h)
    | line l => exact ih ((moved _).symm.trans h)
    | req b => simp [exhausted] at h
    | idle n =>
      cases n with
      | zero => exact ih ((moved _).symm.trans h)
      | succ n => simp [exhausted] at h
    | untilOut o m =>
      simp only [exhausted, Bool.and_eq_true] at h
      simp only [drive, h.1, if_true]
      exact ih ((moved _).symm.trans h.2)
    | input n w =>
      cases n with
      | zero => exact ih h
      | succ n => simp [exhausted] at h

theorem play_of_finished {s : State} (h : s.finished = true) : ∀ n, s.play n = Run.still .ended s := by
  intro n
  cases n <;> simp [State.play, h]

/-- One cycle of a program that has not ended. -/
theorem play_succ {s t u : State} (hf : s.finished = false) (hd : drive s.script s = some t) (hc : cycle t = .next u)
    (n : Nat) : s.play (n + 1) = (u.play n).after t.inWord t.outputs.word := by
  simp [State.play, hf, hd, hc]

/-- The cycles allowed do not matter to a run that stops within them. -/
theorem play_add : ∀ {n : Nat} {s : State}, (s.play n).stop ≠ .unfinished → ∀ k, s.play (n + k) = s.play n := by
  intro n
  induction n with
  | zero =>
    intro s h k
    cases hf : s.finished
    · simp [State.play, hf] at h
    · rw [play_of_finished hf, play_of_finished hf]
  | succ n ih =>
    intro s h k
    rw [Nat.add_right_comm]
    cases hf : s.finished
    · cases hd : drive s.script s with
      | none => simp [State.play, hf, hd]
      | some t =>
        cases hc : cycle t with
        | next u =>
          rw [play_succ hf hd hc] at h ⊢
          rw [play_succ hf hd hc, ih (by simpa using h)]
        | fault r => simp [State.play, hf, hd, hc]
        | refused r => simp [State.play, hf, hd, hc]
    · rw [play_of_finished hf, play_of_finished hf]

/-- The input words a run-length list stands for (R91). -/
def unroll : List (Nat × BitVec 26) → List (BitVec 26)
  | [] => []
  | (n, w) :: ps => List.replicate n w ++ unroll ps

theorem unroll_runLength : ∀ ws : List (BitVec 26), unroll (runLength ws) = ws := by
  intro ws
  induction ws with
  | nil => rfl
  | cons w ws ih =>
    unfold runLength
    cases h : runLength ws with
    | nil => rw [h] at ih; simp [unroll, ← ih]
    | cons p ps =>
      obtain ⟨n, v⟩ := p
      rw [h] at ih
      by_cases hv : v = w
      · subst hv
        simp [unroll, List.replicate_succ] at ih ⊢
        exact ih
      · simp [hv, unroll] at ih ⊢
        exact ih

/-- The commands of a run-length list. -/
def inputs (ps : List (Nat × BitVec 26)) : List Cmd := ps.map (fun p => .input p.1 p.2)

/-- With input words pending, the next cycle is driven by the first of them. -/
theorem drive_inputs : ∀ (ps : List (Nat × BitVec 26)) (s : State),
    (unroll ps = [] → exhausted (inputs ps) s = true) ∧
      ∀ w ws, unroll ps = w :: ws → exhausted (inputs ps) s = false ∧
        ∃ qs, unroll qs = ws ∧ drive (inputs ps) s = some { s with pins := Pins.ofWord w, script := inputs qs } := by
  intro ps
  induction ps with
  | nil => intro s; exact ⟨fun _ => rfl, fun w ws h => by simp [unroll] at h⟩
  | cons p ps ih =>
    intro s
    obtain ⟨n, v⟩ := p
    cases n with
    | zero => exact ih s
    | succ n =>
      refine ⟨fun h => by simp [unroll, List.replicate_succ] at h, ?_⟩
      intro w ws h
      simp only [unroll, List.replicate_succ, List.cons_append, List.cons.injEq] at h
      obtain ⟨rfl, rfl⟩ := h
      exact ⟨rfl, (n, v) :: ps, rfl, rfl⟩

/-- R86, bit by bit. -/
theorem inWord_getLsbD (s : State) (i : Nat) :
    s.inWord.getLsbD i =
      if i < 16 then s.pins.divisor.getLsbD i
      else if i < 24 then s.pins.txBuff.getLsbD (i - 16)
      else if i = 24 then s.pins.txReq
      else decide (i = 25) && s.rxIn := by
  have h : s.inWord.getLsbD i =
      BitVec.getLsbD (w := 1 + 1 + 8 + 16)
        (BitVec.ofBool s.rxIn ++ BitVec.ofBool s.pins.txReq ++ s.pins.txBuff ++ s.pins.divisor) i := rfl
  rw [h, BitVec.getLsbD_append, BitVec.getLsbD_append, BitVec.getLsbD_append]
  by_cases h1 : i < 16
  · simp [h1]
  by_cases h2 : i < 24
  · have : i - 16 < 8 := by omega
    simp [h1, h2, this]
  have h3 : ¬ i - 16 < 8 := by omega
  by_cases h4 : i = 24
  · subst h4; simp
  · have h5 : ¬ i - 16 - 8 < 1 := by omega
    have h6 : (i - 16 - 8 - 1 = 0) ↔ i = 25 := by omega
    simp [h1, h2, h3, h4, h5, BitVec.getLsbD_ofBool, h6]

/-- The pins an input word stands for: the levels it was taken from, the line's as an outside level (R54, R86). -/
theorem ofWord_inWord (s : State) :
    Pins.ofWord s.inWord =
      { divisor := s.pins.divisor, txBuff := s.pins.txBuff, txReq := s.pins.txReq, line := .ext s.rxIn } := by
  unfold Pins.ofWord
  congr 1
  · apply BitVec.eq_of_getLsbD_eq
    intro i hi
    simp [inWord_getLsbD, hi]
  · apply BitVec.eq_of_getLsbD_eq
    intro i hi
    simp [inWord_getLsbD, hi, show 16 + i < 24 by omega]
  · rw [inWord_getLsbD]
    simp
  · rw [inWord_getLsbD]
    simp

/-- The state with the line driven from outside at the level `rx` has, and other commands pending. -/
def State.asExt (s : State) (cs : List Cmd) : State :=
  { s with pins := { s.pins with line := .ext s.rxIn }, script := cs }

section AsExt
variable (s : State) (cs : List Cmd)

@[simp] theorem asExt_tx : (s.asExt cs).tx = s.tx := rfl
@[simp] theorem asExt_rx : (s.asExt cs).rx = s.rx := rfl
@[simp] theorem asExt_cfg : (s.asExt cs).cfg = s.cfg := rfl
@[simp] theorem asExt_drawCtr : (s.asExt cs).drawCtr = s.drawCtr := rfl
@[simp] theorem asExt_script : (s.asExt cs).script = cs := rfl
@[simp] theorem asExt_rxIn : (s.asExt cs).rxIn = s.rxIn := rfl
@[simp] theorem asExt_outputs : (s.asExt cs).outputs = s.outputs := rfl
@[simp] theorem asExt_inWord : (s.asExt cs).inWord = s.inWord := rfl
@[simp] theorem asExt_txReq : (s.asExt cs).pins.txReq = s.pins.txReq := rfl
@[simp] theorem asExt_txBuff : (s.asExt cs).pins.txBuff = s.pins.txBuff := rfl
@[simp] theorem asExt_tick (n : BaudInst) : (s.asExt cs).tick n = s.tick n := by cases n <;> rfl
@[simp] theorem asExt_nextCnt (n : BaudInst) : (s.asExt cs).nextCnt n = s.nextCnt n := by cases n <;> rfl
@[simp] theorem asExt_txChoice : (s.asExt cs).txChoice = s.txChoice := rfl
@[simp] theorem asExt_rxChoice : (s.asExt cs).rxChoice = s.rxChoice := rfl

end AsExt

/-- A rule looks at the line through the level on `rx` alone. -/
theorem exec_asExt {i : Instr} {s a : State} (cs : List Cmd) (h : exec i s = .next a) :
    ∃ b, exec i (s.asExt cs) = .next b ∧ b.tx = a.tx ∧ b.rx = a.rx := by
  have hp : (s.asExt cs).rxParityIllegal = s.rxParityIllegal := rfl
  have hc : ∀ n, (s.asExt cs).cnt n = s.cnt n := by intro n; cases n <;> rfl
  have hw : ∀ n, (s.asExt cs).cntW n = s.cntW n := by intro n; cases n <;> rfl
  cases i with
  | txParityEmit | txParityHold =>
    simp only [exec, execTxParityEmit, execTxParityHold, txParityOnly] at h ⊢
    change (if s.cfg.txParity then _ else _) = _ at h
    cases hq : s.cfg.txParity <;> simp [hq] at h
    simp [State.asExt, hq, ← h]
  | rxOvsHold | rxOvsCount | rxOvsSample =>
    simp only [exec, execRxOvsHold, execRxOvsCount, execRxOvsSample, rxLegal, hp] at h ⊢
    cases hq : s.rxParityIllegal <;> simp [hq] at h ⊢
    simp [← h, State.rxIn]
  | rxParityCheck =>
    simp only [exec, execRxParityCheck] at h ⊢
    cases hq : s.cfg.rxParity <;> simp [hq] at h
    simp [State.asExt, hq, ← h, State.vote]
  | rxIllegal001 | rxIllegal01X => simp [exec, execRxIllegal001, execRxIllegal01X] at h
  | baudRestart n | baudWrap n | baudDraw n | baudInc n =>
    cases n <;> (cases h; exact ⟨_, rfl, rfl, rfl⟩)
  | _ => cases h; exact ⟨_, rfl, rfl, rfl⟩

/-- So does a cycle: with the line driven from outside at that level it moves the registers alike. -/
theorem cycle_asExt {s t : State} (cs : List Cmd) (h : cycle s = .next t) :
    ∃ u, cycle (s.asExt cs) = .next u ∧ u.tx = t.tx ∧ u.rx = t.rx ∧ u.cfg = t.cfg ∧ u.drawCtr = t.drawCtr ∧
      u.script = cs := by
  obtain ⟨a, b, ha, hb, rfl⟩ := cycle_eq_next.mp h
  obtain ⟨a', ha', hat, -⟩ := exec_asExt cs ha
  obtain ⟨b', hb', -, hbr⟩ := exec_asExt cs hb
  exact ⟨_, cycle_eq_next.mpr ⟨a', b', by simpa using ha', by simpa using hb', rfl⟩, by simp [hat], by simp [hbr], rfl, rfl,
    rfl⟩

/-- Driving input words gives the state of the run they were taken from, with the line as an outside level. -/
theorem drive_word {s t : State} {cs : List Cmd} (htx : s.tx = t.tx) (hrx : s.rx = t.rx) (hcfg : s.cfg = t.cfg)
    (hctr : s.drawCtr = t.drawCtr) : ({ s with pins := Pins.ofWord t.inWord, script := cs } : State) = t.asExt cs := by
  rw [ofWord_inWord]
  simp [State.asExt, htx, hrx, hcfg, hctr]

/-- R91, R199: the encoding of a run replays it. From a state with the same registers, the run-length list of a run's input
words has the run's words, its outputs and its end state's registers, whatever the pins held before. -/
theorem play_inputs : ∀ (n : Nat) (s s' : State) (ps : List (Nat × BitVec 26)), (s.play n).stop = .ended →
    unroll ps = (s.play n).words → s'.script = inputs ps → s'.tx = s.tx → s'.rx = s.rx → s'.cfg = s.cfg →
    s'.drawCtr = s.drawCtr →
    (s'.play n).stop = .ended ∧ (s'.play n).words = (s.play n).words ∧ (s'.play n).outs = (s.play n).outs ∧
      (s'.play n).final.tx = (s.play n).final.tx ∧ (s'.play n).final.rx = (s.play n).final.rx := by
  intro n
  induction n with
  | zero =>
    intro s s' ps h hw hs htx hrx hcfg hctr
    have hf : s'.finished = true := by
      rw [State.finished, hs]
      exact (drive_inputs ps s').1 (by simpa [State.play] using hw)
    rw [play_of_finished hf]
    simp [State.play, htx, hrx]
  | succ n ih =>
    intro s s' ps h hw hs htx hrx hcfg hctr
    cases hf : s.finished
    · cases hd : drive s.script s with
      | none => simp [State.play, hf, hd] at h
      | some t =>
        cases hc : cycle t with
        | fault r => simp [State.play, hf, hd, hc] at h
        | refused r => simp [State.play, hf, hd, hc] at h
        | next u =>
          have hp := play_succ hf hd hc n
          rw [hp] at h hw ⊢
          obtain ⟨k1, k2, k3, k4⟩ := drive_keeps hd
          obtain ⟨e, qs, hq, hdq⟩ := (drive_inputs ps s').2 _ _ hw
          rw [drive_word (htx.trans k1.symm) (hrx.trans k2.symm) (hcfg.trans k3.symm) (hctr.trans k4.symm)] at hdq
          obtain ⟨v, hv, vtx, vrx, vcfg, vctr, vs⟩ := cycle_asExt (inputs qs) hc
          have hf' : s'.finished = false := by rw [State.finished, hs]; exact e
          rw [play_succ hf' (by rw [hs]; exact hdq) hv n]
          simpa using ih u v qs h hq vs vtx vrx vcfg vctr
    · rw [play_of_finished hf] at hw ⊢
      have hf' : s'.finished = true := by
        rw [State.finished, hs]
        exact (drive_inputs ps s').1 hw
      rw [play_of_finished hf']
      simp [htx, hrx]

/-- R91: the encoding of a program, loaded as input words, gives the program's run. -/
theorem encoding_replays {n : Nat} {p : Program} {d : ResetDraws} {ws : List (Nat × BitVec 26)}
    (h : p.encoding n d = some ws) :
    let r := (State.loadWords (Config.uartCore p.parity p.edgeQ) d ws).play n
    r.stop = .ended ∧ r.words = (p.run n d).words ∧ r.outs = (p.run n d).outs ∧
      r.final.tx = (p.run n d).final.tx ∧ r.final.rx = (p.run n d).final.rx := by
  unfold Program.encoding at h
  split at h
  case h_1 hs =>
    obtain rfl := Option.some.inj h
    exact play_inputs n (p.load d) _ _ hs (unroll_runLength _) rfl rfl rfl rfl rfl
  all_goals simp at h

end Sys2Proof.Machine
end

