-- ==== Sys2Proof/Tests/Slice0.lean ====
section
/-! SUPPORT. Tests/Slice0.lean: ill-formed terms the checks refuse, words written out from 30_encoding.md, one-step vectors of 95_test_vectors.md (each test names its vector), and, for each obligation with hypotheses, a state and operands that meet them. -/

namespace Sys2Proof.Tests

open Sys2Proof.Machine Sys2Proof.Claims

/-- A state with the given registers and pins, no command pending. -/
def st (parity edgeQ : Bool) (tx : TxRegs) (rx : RxRegs) (p : Pins) : State :=
  { cfg := Config.uartCore parity edgeQ, tx := tx, rx := rx, pins := p, script := [], drawCtr := 0 }

/-- The registers of R240's reset state, every draw 0. -/
def tx0 : TxRegs := State.reset.tx
def rx0 : RxRegs := State.reset.rx

/-- A transmitter sending, with `tx_rdy_q = 0`. -/
def txIn (t : TxState) (cnt : Nat) (bitcnt : Nibble) (q : Bool) : TxRegs :=
  { tx0 with state := t, cnt := cnt, bitcnt := bitcnt, q := q, rdyQ := false }

/-- A receiver at an oversample count, with `rx_cnt = 1`. -/
def rxIn (r : RxState) (os : Nibble) (win : BitVec 3) (bitcnt : Nibble) : RxRegs :=
  { rx0 with state := r, cnt := 1, os := os, win := win, bitcnt := bitcnt }

def pin (divisor : Divisor) (req : Bool) (b : Byte) (rx : Bool) : Pins :=
  { divisor := divisor, txBuff := b, txReq := req, line := .ext rx }

/-- The registers after a step. -/
def regs (r : Result) : Option (TxRegs × RxRegs) :=
  match r with
  | .next t => some (t.tx, t.rx)
  | .fault _ => none
  | .refused _ => none

/-- Why a step stopped. -/
def stopOf (r : Result) : Option (Fault ⊕ Refusal) :=
  match r with
  | .next _ => none
  | .fault f => some (.inl f)
  | .refused f => some (.inr f)

/-- TX side of a vector: the registers after a step from the given TX registers, with the receiver idle at `rx_cnt = 1`. -/
def txStep (parity : Bool) (tx : TxRegs) (p : Pins) : Option (TxRegs × RxRegs) :=
  regs (step (st parity true tx { rx0 with cnt := 1 } p))

/-- RX side of a vector at `divisor = 32`: the RX registers after a step, with the transmitter idle. -/
def rxStep (parity edgeQ : Bool) (rx : RxRegs) (level : Bool) : Option RxRegs :=
  (regs (step (st parity edgeQ tx0 rx (pin 32 false 0 level)))).map (·.2)

/-! Ill-formed terms. -/

/-- R9: widths of at least 16 and 12. -/
theorem test_wf_narrow_tx_counter : ({ Config.standard with txCntW := 15 } : Config).wf = false := by decide
theorem test_wf_narrow_rx_counter : ({ Config.standard with rxCntW := 11 } : Config).wf = false := by decide
theorem test_wf_least_widths : ({ Config.standard with txCntW := 16, rxCntW := 12 } : Config).wf = true := by decide

/-- R10: one PARITY for both engines. -/
theorem test_wf_unmatched_parity : ({ Config.standard with rxParity := false } : Config).matched = false := by decide

/-- R126, R127, R161: rows of the parity variant only; R85: rows of no variant. -/
theorem test_wf_parity_rows_without_parity :
    ∀ i ∈ [Instr.txParityEmit, .txParityHold, .rxParityCheck], Instr.wf (Config.uartCore false true) i = false := by decide
theorem test_wf_illegal_rows : ∀ i ∈ [Instr.rxIllegal001, .rxIllegal01X], Instr.wf Config.standard i = false := by decide

/-- R89: FRAME is for an EXT line only, and LINE LOOP is the default. -/
theorem test_wf_frame_on_looped_line :
    ({ parity := true, edgeQ := true, body := [.frame 0xA5 32 none true] } : Program).wf = false := by decide
theorem test_wf_frame_on_ext_line :
    ({ parity := true, edgeQ := true, body := [.lineExt true, .frame 0xA5 32 none true] } : Program).wf = true := by decide

/-! Words written out from R81 to R83, bits a mask leaves out set to 1 where there are any. -/

/-- R81; bit 4 `full`, bit 3 `tick`, bit 2 `req`, bits 1..0 `st`. -/
theorem test_decode_tx_words :
    [0b11000, 0b11100, 0b11101, 0b01101, 0b00101, 0b11110, 0b10110, 0b11111, 0b10111].map (decodeTableWord 5) =
      [some .txWaitIdle, some .txWaitAccept, some .txDataEnd, some .txDataShift, some .txDataHold, some .txParityEmit,
        some .txParityHold, some .txStopEmit, some .txStopHold] := by decide

/-- R82; bit 8 `vote`, bit 7 `ddone`, bit 6 `last`, bit 5 `samp`, bit 4 `edge`, bit 3 `tick`, bits 2..0 `st`. -/
theorem test_decode_rx_words :
    [0b101101000, 0b101111000, 0b111111101, 0b101110101, 0b100011110, 0b100111111, 0b001011100, 0b101001100, 0b101011101,
        0b101011110, 0b101011111, 0b111111001, 0b111111011].map (decodeTableWord 9) =
      [some .rxWaitIdle, some .rxWaitDetect, some .rxDataDone, some .rxOvsHold, some .rxOvsCount, some .rxOvsSample,
        some .rxStartConfirm, some .rxStartReject, some .rxDataBit, some .rxParityCheck, some .rxStopEnd, some .rxIllegal001,
        some .rxIllegal01X] := by decide

/-- R83; bit 2 `restart`, bit 1 `hit`, bit 0 `zero`. -/
theorem test_decode_baud_words :
    [0b111, 0b010, 0b011, 0b000].map (fun w => (decode (.bsel .rx) w).toOption) =
      [some (.baudRestart .rx), some (.baudWrap .rx), some (.baudDraw .rx), some (.baudInc .rx)] := by decide

/-- R82: `samp` and `last` together, and `ddone` outside DATA, are no row; a word must have its table's width. -/
theorem test_decode_rejects :
    [0b001101101, 0b010001100].map (decodeTableWord 9) = [none, none] ∧ decodeTableWord 5 0b100000 = none ∧
      decodeTableWord 4 0 = none := by decide

/-- Log 8: a placed word is the next cycle's selector word. -/
theorem test_withFetchWord_tx : ∀ w < 32, bitsWord (State.reset.withFetchWord 5 w).txSel = w := by decide
theorem test_withFetchWord_baud : ∀ w ∈ [0, 1, 2, 4, 5, 6], bitsWord ((State.reset.withFetchWord 3 w).bSel .tx) = w := by
  decide
theorem test_withFetchWord_rx :
    ∀ r ∈ rxMap, (State.reset.withFetchWord 9 r.2.1).rxRule = some r.2.2 := by decide

/-! Primitives: V-XOR, V-MAJ, and the packed words of R86, R87. -/

theorem test_XOR :
    [0x00, 0xFF, 0xA5, 0x5A, 0x3C, 0x0F, 0x11, 0x1E, 0xA9, 0x01, 0x80, 0x7F, 0xFE].map (fun b => xor8 (BitVec.ofNat 8 b)) =
      [false, false, false, false, false, false, false, false, false, true, true, true, true] := by decide

theorem test_MAJ : [0, 1, 2, 3, 4, 5, 6, 7].map (fun w => winVote (BitVec.ofNat 3 w)) =
    [false, false, false, true, false, true, true, true] := by decide

/-- The reset state drives `tx` and `tx_rdy` high: OUT is 3 (R87, R240). -/
theorem test_reset_out : State.reset.outputs.word = 0x003 := by decide

/-- R86: divisor 32, byte 0xA5, `tx_req` and `rx` high. -/
theorem test_in_word : (st true true tx0 rx0 (pin 32 true 0xA5 true)).inWord = 0x3A50020 := by decide

/-! BaudTick: V-BT, on the TX BaudTick, whose target is the divisor and whose restart is an acceptance. -/

/-- BSEL, `tick` and the next count. -/
def baudVec (cnt : Nat) (T : Divisor) (restart : Bool) : Nat × Bool × Option Nat :=
  let s := st true true { tx0 with cnt := cnt } { rx0 with cnt := 1 } (pin T restart 0 true)
  (bitsWord (s.bSel .tx), s.tick .tx, (regs (step s)).map (·.1.cnt))

theorem test_BT_wrap : baudVec 31 32 false = (2, true, some 0) ∧ baudVec 0xFFFE 0xFFFF false = (2, true, some 0) := by decide
theorem test_BT_restart : baudVec 31 32 true = (6, true, some 0) ∧ baudVec 5 32 true = (4, false, some 0) := by decide
theorem test_BT_inc : baudVec 30 32 false = (0, false, some 31) ∧ baudVec 40 32 false = (0, false, some 41) := by decide
theorem test_BT_inc_wraps :
    baudVec 0xFFFF 32 false = (0, false, some 0) ∧ baudVec 0xFFFF 0xFFFF false = (0, false, some 0) := by decide

/-- V-BT-12, V-BT-13: with target 0 the free draw decides, whichever it is. -/
theorem test_BT_draw (d : Bool) (h : Config.tickDraw .tx 0 = d) :
    (regs (exec (.baudDraw .tx) (st true true { tx0 with cnt := 7 } rx0 (pin 0 false 0 true)))).map (·.1.cnt) =
      some (if d then 0 else 8) := by
  subst h
  show (regs (.next _)).map _ = _
  cases hd : Config.tickDraw .tx 0 <;> simp [regs, st, State.setCnt, State.cnt, State.cntW, incCnt, hd, Config.uartCore]

/-! TxEngine: V-TXS. -/

theorem test_TXS_1 :
    txStep true { tx0 with cnt := 7, rdyQ := false } (pin 32 false 0 true) = some ({ tx0 with cnt := 8 }, rx0) := by decide
theorem test_TXS_3 :
    txStep true { tx0 with cnt := 31 } (pin 32 true 0x01 true) =
      some ({ txIn .data 0 0 false with shift := 0x01, par := true }, rx0) := by decide
theorem test_TXS_4 :
    txStep false { tx0 with par := true } (pin 32 true 0x01 true) =
      some ({ txIn .data 0 0 false with shift := 0x01, par := true }, rx0) := by decide
theorem test_TXS_5 :
    txStep true { txIn .data 31 0 false with shift := 0xA5 } (pin 32 false 0 true) =
      some ({ txIn .data 0 1 true with shift := 0x52 }, rx0) := by decide
theorem test_TXS_6 :
    txStep true { txIn .data 5 1 true with shift := 0x52 } (pin 32 true 0xFF true) =
      some ({ txIn .data 6 1 true with shift := 0x52 }, rx0) := by decide

/-- V-TXS-7: the tick of `divisor = 1` is lost on DATA's end. -/
theorem test_TXS_7 :
    (txStep true (txIn .data 0 8 true) (pin 1 false 0 true)).map (·.1) = some (txIn .parity 0 8 true) := by decide
theorem test_TXS_8 : txStep false (txIn .data 3 8 true) (pin 32 false 0 true) = some (txIn .stop 4 8 true, rx0) := by decide
theorem test_TXS_9 :
    txStep true { txIn .parity 31 8 false with par := true } (pin 32 false 0 true) =
      some ({ txIn .stop 0 8 true with par := true }, rx0) := by decide
theorem test_TXS_10 :
    txStep true { txIn .parity 30 8 true with par := true } (pin 32 false 0 true) =
      some ({ txIn .parity 31 8 true with par := true }, rx0) := by decide
theorem test_TXS_11 :
    txStep true (txIn .stop 31 8 false) (pin 32 false 0 true) = some ({ txIn .wait 0 0 true with rdyQ := false }, rx0) := by
  decide
theorem test_TXS_12 :
    txStep true (txIn .stop 2 8 false) (pin 32 true 0x11 true) = some (txIn .stop 3 8 false, rx0) := by decide

/-- V-TXS-F. -/
theorem test_TXS_F :
    stopOf (step (st false true (txIn .parity 0 8 true) rx0 (pin 32 false 0 true))) =
      some (.inl .txParityStateWithoutParity) := by decide

/-! RxEngine: V-RXS. -/

theorem test_RXS_1 : rxStep true true { rx0 with cnt := 1, rdyQ := true } true = some rx0 := by decide
theorem test_RXS_2 : rxStep true true rx0 false = some { rx0 with cnt := 1 } := by decide
theorem test_RXS_3 :
    rxStep true true { rx0 with cnt := 1, win := 0b110 } false =
      some { rx0 with state := .start, cnt := 0, win := 0b110 } := by decide
theorem test_RXS_4 : rxStep true false { rx0 with rdyQ := true } false = some { rx0 with state := .start } := by decide
theorem test_RXS_5 :
    rxStep true true { rxIn .start 3 0 0 with cnt := 0 } false = some (rxIn .start 3 0 0) := by decide
theorem test_RXS_6 :
    rxStep true true (rxIn .data 12 0 0) true = some { rxIn .data 13 0 0 with cnt := 0 } := by decide
theorem test_RXS_7 :
    rxStep true true (rxIn .start 7 0b111 0) false = some { rxIn .start 8 0b110 0 with cnt := 0 } := by decide
theorem test_RXS_9 :
    rxStep true true (rxIn .stop 9 0b011 8) true = some { rxIn .stop 10 0b111 8 with cnt := 0 } := by decide
theorem test_RXS_10 :
    rxStep true true (rxIn .start 15 0b100 0) false = some { rxIn .data 0 0b100 0 with cnt := 0 } := by decide
theorem test_RXS_11 :
    rxStep true true (rxIn .start 15 0b011 0) true = some { rxIn .wait 0 0b011 0 with cnt := 0 } := by decide
theorem test_RXS_12 :
    rxStep true true (rxIn .data 15 0b101 0) true =
      some { rxIn .data 0 0b101 1 with cnt := 0, acc := 0x80 } := by decide
theorem test_RXS_13 :
    rxStep true true { rxIn .data 15 0b001 7 with acc := 0xA5 } false =
      some { rxIn .data 0 0b001 8 with cnt := 0, acc := 0x52 } := by decide
theorem test_RXS_14 :
    rxStep true true { rxIn .data 0 0 8 with acc := 0x5A } true =
      some { rxIn .parity 0 0 8 with cnt := 0, acc := 0x5A } := by decide
theorem test_RXS_15 :
    rxStep false true { rxIn .data 0 0 8 with cnt := 0, acc := 0x5A } true =
      some { rxIn .stop 0 0 8 with acc := 0x5A } := by decide
theorem test_RXS_16 :
    rxStep true true { rxIn .parity 15 0 8 with acc := 0xA5, buffQ := 0x11, errorQ := true } false =
      some { rxIn .stop 0 0 8 with cnt := 0, acc := 0xA5, buffQ := 0xA5, errorQ := false } := by decide
theorem test_RXS_17 :
    rxStep true true { rxIn .parity 15 0b111 8 with acc := 0xA5 } true =
      some { rxIn .stop 0 0b111 8 with cnt := 0, acc := 0xA5, buffQ := 0xA5, errorQ := true } := by decide
theorem test_RXS_20 :
    rxStep true true { rxIn .stop 15 0b100 8 with acc := 0xA5, buffQ := 0xA5 } false =
      some { rxIn .wait 0 0b100 0 with cnt := 0, acc := 0xA5, buffQ := 0xA5, rdyQ := true, errorQ := true } := by decide
theorem test_RXS_22 :
    rxStep false true { rxIn .stop 15 0b111 8 with acc := 0x3C, buffQ := 0xA5 } true =
      some { rxIn .wait 0 0b111 0 with cnt := 0, acc := 0x3C, buffQ := 0x3C, rdyQ := true } := by decide

/-- V-RXS-23: target 1. -/
theorem test_RXS_23 :
    (regs (step (st true true tx0 { rxIn .data 2 0 0 with cnt := 0 } (pin 16 false 0 true)))).map (·.2) =
      some { rxIn .data 3 0 0 with cnt := 0 } := by decide

/-- V-RXS-F. -/
theorem test_RXS_F_reserved :
    [RxState.reserved001, .reserved010, .reserved011].map
        (fun r => stopOf (step (st true true tx0 (rxIn r 0 0 0) (pin 32 false 0 true)))) =
      [some (.inl .rxIllegalState), some (.inl .rxIllegalState), some (.inl .rxIllegalState)] := by decide
theorem test_RXS_F_parity :
    stopOf (step (st false true tx0 (rxIn .parity 15 0 8) (pin 32 false 0 true))) = some (.inl .rxIllegalState) := by decide

/-! Witnesses: for each obligation with hypotheses, a state and operands that meet all of them. -/

/-- Both engines in WAIT, the line high, divisor 32. -/
def idle (parity : Bool) : State := st parity true tx0 rx0 (pin 32 false 0 true)

theorem inv_idle (parity : Bool) : Inv (idle parity) := by
  cases parity <;> exact ⟨by decide, ⟨by decide, by decide, by decide, by decide, by decide, by decide⟩,
    ⟨by decide, by decide, by decide, by decide, by decide, by decide, by decide, by decide⟩⟩

theorem inv_reset : Inv State.reset :=
  ⟨by decide, ⟨by decide, by decide, by decide, by decide, by decide, by decide⟩,
    ⟨by decide, by decide, by decide, by decide, by decide, by decide, by decide, by decide⟩⟩

/-- Pins that hold, with a request in cycle 0 only. -/
def oneRequest (divisor : Divisor) (b : Byte) (l : Line) (k : Nat) : Pins :=
  { divisor := divisor, txBuff := b, txReq := k == 0, line := l }

theorem oneRequest_later {divisor : Divisor} {b : Byte} {l : Line} {k : Nat} (h : 1 ≤ k) :
    (oneRequest divisor b l k).txReq = false := by
  simp [oneRequest]
  omega

theorem target_rx_pin (u : State) (d : Divisor) (b : Byte) (l : Line) (k : Nat) :
    (u.withPins (oneRequest d b l k)).target .rx = d.toNat / 16 := target_rx _

theorem restart_tx_later (u : State) (d : Divisor) (b : Byte) (l : Line) {k : Nat} (h : 1 ≤ k) :
    (u.withPins (oneRequest d b l k)).restart .tx = false := by
  have := oneRequest_later (divisor := d) (b := b) (l := l) h
  simp [State.restart, State.accept, this]

/-- On a high line the receiver's BaudTick is never restarted. -/
theorem restart_rx_high (u : State) (d : Divisor) (b : Byte) (k : Nat) :
    (u.withPins (oneRequest d b (.ext true) k)).restart .rx = false := by
  simp [State.restart, State.detect, State.edge, State.rxIn, oneRequest]

/-- RxWordsDecodeByMaskAndMatch: a word that matches no row. -/
theorem test_witness_noRow : ∃ w < 512, ¬ ∃ r ∈ rxMap, selects w r :=
  ⟨0b001101101, by decide, by unfold selects; decide⟩

/-- DecodeAndEncodeAgree, right to left, with a free bit of the row set. -/
theorem test_witness_DecodeAndEncodeAgree :
    ∃ (t : Table) (w : Nat) (i : Instr), i.table = t ∧ w < 2 ^ t.width ∧ w &&& i.mask = encode i ∧ w ≠ encode i :=
  ⟨.rxsel, 0b101001110, .rxParityCheck, by decide⟩

/-- StepRunsTheFourDecodedRules: four rules that complete; a receiver fault; a transmitter fault. -/
theorem test_witness_StepRuns_next :
    ∃ (s : State) (itx irx ibt ibr : Instr), s.script = [] ∧ decodeBits .txsel s.txSel = .ok itx ∧
      decodeBits .rxsel s.rxSel = .ok irx ∧ decodeBits (.bsel .tx) (s.bSel .tx) = .ok ibt ∧
      decodeBits (.bsel .rx) (s.bSel .rx) = .ok ibr ∧
      ∃ a b c d, exec itx s = .next a ∧ exec irx s = .next b ∧ exec ibt s = .next c ∧ exec ibr s = .next d :=
  ⟨idle true, .txWaitIdle, .rxWaitIdle, .baudInc .tx, .baudInc .rx, rfl, rfl, rfl, rfl, rfl, _, _, _, _, rfl, rfl, rfl, rfl⟩
theorem test_witness_StepRuns_rx_fault :
    ∃ (s : State) (itx irx ibt ibr : Instr), s.script = [] ∧ decodeBits .txsel s.txSel = .ok itx ∧
      decodeBits .rxsel s.rxSel = .ok irx ∧ decodeBits (.bsel .tx) (s.bSel .tx) = .ok ibt ∧
      decodeBits (.bsel .rx) (s.bSel .rx) = .ok ibr ∧ (∃ a, exec itx s = .next a) ∧ ∃ r, exec irx s = .fault r :=
  ⟨st true true tx0 (rxIn .reserved001 0 0 0) (pin 32 false 0 true), .txWaitIdle, .rxIllegal001, .baudInc .tx, .baudWrap .rx,
    rfl, rfl, rfl, rfl, rfl, ⟨_, rfl⟩, _, rfl⟩
theorem test_witness_StepRuns_tx_fault :
    ∃ (s : State) (itx irx ibt ibr : Instr), s.script = [] ∧ decodeBits .txsel s.txSel = .ok itx ∧
      decodeBits .rxsel s.rxSel = .ok irx ∧ decodeBits (.bsel .tx) (s.bSel .tx) = .ok ibt ∧
      decodeBits (.bsel .rx) (s.bSel .rx) = .ok ibr ∧ ∃ r, exec itx s = .fault r :=
  ⟨st false true (txIn .parity 0 8 true) rx0 (pin 32 false 0 true), .txParityHold, .rxWaitIdle, .baudInc .tx, .baudInc .rx,
    rfl, rfl, rfl, rfl, rfl, _, rfl⟩

/-- BaudWrapAndIncComplete: a cycle without restart; a full counter. -/
theorem test_witness_BaudWrapAndIncComplete :
    (∃ s : State, ∀ n : BaudInst, s.target n ≠ 0 ∧ s.script = [] ∧ s.legal = true ∧ s.restart n = false) ∧
      ∃ s : State, ∀ n : BaudInst, s.target n ≠ 0 ∧ s.cfg.wf = true ∧ s.cnt n = 2 ^ s.cntW n - 1 :=
  ⟨⟨idle true, fun n => by cases n <;> decide⟩,
    ⟨st true true { tx0 with cnt := 65535 } { rx0 with cnt := 65535 } (pin 0xFFFF false 0 true),
      fun n => by cases n <;> decide⟩⟩

/-- BaudRestartAndDrawComplete: no target; both BaudTicks restarted in one cycle. -/
theorem test_witness_BaudRestartAndDrawComplete :
    (∃ s : State, ∀ n : BaudInst, s.target n = 0 ∧ s.script = [] ∧ s.legal = true ∧ s.restart n = false) ∧
      ∃ s : State, ∀ n : BaudInst, s.script = [] ∧ s.legal = true ∧ s.restart n = true :=
  ⟨⟨State.reset, fun n => by cases n <;> decide⟩,
    ⟨st true true tx0 { rx0 with cnt := 1 } (pin 32 true 0xA5 false), fun n => by cases n <;> decide⟩⟩

/-- TickPeriodIsTheTarget: an acceptance in cycle 0 and the first pulse; a wrap in cycle 0 and a cycle without a pulse. -/
theorem test_witness_TickPeriod_restart :
    ∃ (n : BaudInst) (s : State) (ins : Nat → Pins) (T j : Nat) (t : State), Inv s ∧
      ((s.withPins (ins 0)).restart n = true ∨ (s.withPins (ins 0)).hit n = true) ∧
      1 ≤ T ∧ (∀ c, 1 ≤ c → ∀ u : State, (u.withPins (ins c)).target n = T) ∧ 1 ≤ j ∧ runPins ins s j = .next t ∧
      (∀ c u, 1 ≤ c → c < j → runPins ins s c = .next u → (u.withPins (ins c)).restart n = false) ∧ T ∣ j :=
  ⟨.tx, idle true, oneRequest 32 0xA5 (.ext true), 32, 32, _, inv_idle true, .inl (by decide), by decide,
    fun _ _ _ => rfl, by decide, rfl, fun _ u hc _ _ => restart_tx_later u _ _ _ hc, by decide⟩
theorem test_witness_TickPeriod_wrap :
    ∃ (n : BaudInst) (s : State) (ins : Nat → Pins) (T j : Nat) (t : State), Inv s ∧
      ((s.withPins (ins 0)).restart n = true ∨ (s.withPins (ins 0)).hit n = true) ∧
      1 ≤ T ∧ (∀ c, 1 ≤ c → ∀ u : State, (u.withPins (ins c)).target n = T) ∧ 1 ≤ j ∧ runPins ins s j = .next t ∧
      (∀ c u, 1 ≤ c → c < j → runPins ins s c = .next u → (u.withPins (ins c)).restart n = false) ∧ ¬ T ∣ j :=
  ⟨.rx, st true true tx0 { rx0 with cnt := 1 } (pin 32 false 0 true), oneRequest 32 0xA5 (.ext true), 2, 3, _,
    ⟨by decide, ⟨by decide, by decide, by decide, by decide, by decide, by decide⟩,
      ⟨by decide, by decide, by decide, by decide, by decide, by decide, by decide, by decide⟩⟩,
    .inr (by decide), by decide, fun _ _ _ => target_rx_pin _ _ _ _ _, by decide, rfl, fun c u _ _ _ => restart_rx_high u _ _ c, by decide⟩

/-- LoweredTargetWaitsForTheWrap: a count below the target, and one past it. -/
theorem test_witness_LoweredTarget_below :
    ∃ (n : BaudInst) (s : State) (ins : Nat → Pins) (T j : Nat) (t : State), Inv s ∧ 1 ≤ T ∧
      (∀ c, ∀ u : State, (u.withPins (ins c)).target n = T) ∧ runPins ins s j = .next t ∧
      (∀ c u, c < j → runPins ins s c = .next u → (u.withPins (ins c)).restart n = false) ∧
      s.cnt n + 1 ≤ T ∧ j = T - 1 - s.cnt n :=
  ⟨.rx, idle true, oneRequest 48 0 (.ext true), 3, 2, _, inv_idle true, by decide, fun _ _ => target_rx_pin _ _ _ _ _, rfl,
    fun c u _ _ => restart_rx_high u _ _ c, by decide⟩
theorem test_witness_LoweredTarget_past :
    ∃ (n : BaudInst) (s : State) (ins : Nat → Pins) (T j : Nat) (t : State), Inv s ∧ 1 ≤ T ∧
      (∀ c, ∀ u : State, (u.withPins (ins c)).target n = T) ∧ runPins ins s j = .next t ∧
      (∀ c u, c < j → runPins ins s c = .next u → (u.withPins (ins c)).restart n = false) ∧
      ¬ s.cnt n + 1 ≤ T ∧ j = (2 ^ s.cntW n - s.cnt n) + (T - 1) :=
  ⟨.rx, st true true tx0 { rx0 with cnt := 0xFFFF } (pin 32 false 0 true), oneRequest 48 0 (.ext true), 3, 3, _,
    ⟨by decide, ⟨by decide, by decide, by decide, by decide, by decide, by decide⟩,
      ⟨by decide, by decide, by decide, by decide, by decide, by decide, by decide, by decide⟩⟩,
    by decide, fun _ _ => target_rx_pin _ _ _ _ _, rfl, fun c u _ _ => restart_rx_high u _ _ c, by decide⟩

/-- ReceiverTruncatesTheDivisor, at both ends of its range. -/
theorem test_witness_ReceiverTruncates :
    ∀ D ∈ [16#16, 31#16], ∃ s t : State, s.pins.divisor = D ∧ s.script = [] ∧ 16 ≤ s.pins.divisor.toNat ∧
      s.pins.divisor.toNat ≤ 31 ∧ s.rx.cnt = 0 ∧ step s = .next t := by
  intro D hD
  simp only [List.mem_cons, List.not_mem_nil, or_false] at hD
  rcases hD with rfl | rfl <;> exact ⟨st true true tx0 rx0 (pin _ false 0 true), _, rfl, rfl, by decide, by decide, rfl, rfl⟩

theorem test_witness_QualifiedReceiverNeverStarts :
    ∃ (s : State) (ins : Nat → Pins), Inv s ∧ s.cfg.rxEdgeQualified = true ∧ s.rx.state = .wait ∧ s.rx.cnt = 0 ∧
      (∀ c, 16 ≤ (ins c).divisor.toNat ∧ (ins c).divisor.toNat ≤ 31) ∧ ∀ c, (ins c).line = .ext false :=
  ⟨idle true, fun _ => pin 31 false 0 false, inv_idle true, rfl, rfl, rfl, fun _ => (by decide : 16 ≤ (31#16).toNat ∧ (31#16).toNat ≤ 31), fun _ => rfl⟩

/-- TxParityAndStopRulesComplete and the other exec statements: a state of each variant. -/
theorem test_witness_variants :
    (∃ s : State, s.cfg.txParity = true ∧ s.cfg.rxParity = true) ∧
      (∃ s : State, s.cfg.txParity = false ∧ s.cfg.rxParity = false ∧ s.rx.state = .parity) ∧
      ∃ s : State, ¬ (s.rx.state = .parity ∧ s.cfg.rxParity = false) ∧ 7 ≤ s.rx.os.toNat ∧ s.rx.os.toNat ≤ 9 :=
  ⟨⟨idle true, by decide⟩, ⟨st false true tx0 (rxIn .parity 15 0 8) (pin 32 false 0 true), by decide⟩,
    ⟨st true true tx0 (rxIn .stop 9 0 8) (pin 32 false 0 true), by decide⟩⟩

theorem test_witness_TxWaitCycle :
    ∀ req : Bool, ∃ s : State, s.script = [] ∧ s.rx.state.legal s.cfg.rxParity = true ∧ s.tx.state = .wait ∧
      s.pins.txReq = req :=
  fun req => ⟨st true true tx0 rx0 (pin 32 req 0xA5 true), by cases req <;> decide⟩

/-- TxDataCycle: the end of DATA on a tick, a tick, a cycle without one. -/
theorem test_witness_TxDataCycle :
    (∃ s : State, s.script = [] ∧ s.rx.state.legal s.cfg.rxParity = true ∧ s.tx.state = .data ∧
      s.tx.bitcnt.getLsbD 3 = true ∧ s.tick .tx = true) ∧
    (∃ s : State, s.script = [] ∧ s.rx.state.legal s.cfg.rxParity = true ∧ s.tx.state = .data ∧
      s.tx.bitcnt.getLsbD 3 = false ∧ s.tick .tx = true) ∧
    ∃ s : State, s.script = [] ∧ s.rx.state.legal s.cfg.rxParity = true ∧ s.tx.state = .data ∧
      s.tx.bitcnt.getLsbD 3 = false ∧ s.tick .tx = false :=
  ⟨⟨st true true (txIn .data 31 8 true) rx0 (pin 32 false 0 true), by decide⟩,
    ⟨st true true (txIn .data 31 7 true) rx0 (pin 32 false 0 true), by decide⟩,
    ⟨st true true (txIn .data 30 7 true) rx0 (pin 32 false 0 true), by decide⟩⟩

theorem test_witness_TxParityCycle :
    (∀ k : Bool, ∃ s : State, s.script = [] ∧ s.tx.state = .parity ∧ s.cfg.txParity = true ∧
      s.rx.state.legal s.cfg.rxParity = true ∧ s.tick .tx = k) ∧
    ∃ s : State, s.script = [] ∧ s.tx.state = .parity ∧ s.cfg.txParity = false :=
  ⟨fun k => ⟨st true true (txIn .parity (if k then 31 else 30) 8 true) rx0 (pin 32 false 0 true), by cases k <;> decide⟩,
    ⟨st false true (txIn .parity 0 8 true) rx0 (pin 32 false 0 true), by decide⟩⟩

theorem test_witness_TxStopCycle :
    ∀ k : Bool, ∃ s : State, s.script = [] ∧ s.rx.state.legal s.cfg.rxParity = true ∧ s.tx.state = .stop ∧ s.tick .tx = k :=
  fun k => ⟨st true true (txIn .stop (if k then 31 else 30) 8 true) rx0 (pin 32 false 0 true), by cases k <;> decide⟩

/-- RxIllegalStatesFault: each of the four. -/
theorem test_witness_RxIllegalStatesFault :
    ∀ p : RxState × Bool, p ∈ [(RxState.reserved001, true), (.reserved010, true), (.reserved011, true), (.parity, false)] →
      ∃ s : State, s.script = [] ∧ s.tx.state.legal s.cfg.txParity = true ∧ s.rx.state = p.1 ∧ s.cfg.rxParity = p.2 := by
  intro p hp
  exact ⟨st p.2 true tx0 (rxIn p.1 0 0 0) (pin 32 false 0 true), rfl, rfl, rfl, rfl⟩

/-- RxWaitCycle: a low line that the qualifier turns down, and one it lets through. -/
theorem test_witness_RxWaitCycle :
    (∃ s : State, s.script = [] ∧ s.tx.state.legal s.cfg.txParity = true ∧ s.rx.state = .wait ∧ s.rxIn = false ∧
      ¬ startEdge s) ∧
    ∃ s : State, s.script = [] ∧ s.tx.state.legal s.cfg.txParity = true ∧ s.rx.state = .wait ∧ startEdge s :=
  ⟨⟨st true true tx0 rx0 (pin 32 false 0 false), by unfold startEdge; decide⟩,
    ⟨st true true tx0 { rx0 with cnt := 1 } (pin 32 false 0 false), by unfold startEdge; decide⟩⟩

/-- RxOversampleCycle: no tick; each end of the sampling range; each tick next to it, and the last before the vote. -/
theorem test_witness_RxOversampleCycle :
    (∃ s : State, s.script = [] ∧ s.tx.state.legal s.cfg.txParity = true ∧ s.rx.state.legal s.cfg.rxParity = true ∧
      oversampling s ∧ s.tick .rx = false) ∧
    (∀ os ∈ [7#4, 9#4], ∃ s : State, s.script = [] ∧ s.tx.state.legal s.cfg.txParity = true ∧
      s.rx.state.legal s.cfg.rxParity = true ∧ oversampling s ∧ s.tick .rx = true ∧ s.rx.os = os ∧
      7 ≤ s.rx.os.toNat ∧ s.rx.os.toNat ≤ 9) ∧
    ∀ os ∈ [6#4, 10#4, 14#4], ∃ s : State, s.script = [] ∧ s.tx.state.legal s.cfg.txParity = true ∧
      s.rx.state.legal s.cfg.rxParity = true ∧ oversampling s ∧ s.tick .rx = true ∧ s.rx.os = os ∧
      ¬ (7 ≤ s.rx.os.toNat ∧ s.rx.os.toNat ≤ 9) ∧ s.rx.os.toNat ≠ 15 := by
  unfold oversampling
  refine ⟨⟨st true true tx0 { rxIn .start 0 0 0 with cnt := 0 } (pin 32 false 0 true), by decide⟩, ?_, ?_⟩
  · intro os h
    exact ⟨st true true tx0 (rxIn .data os 0 7) (pin 32 false 0 true), by revert os; decide⟩
  · intro os h
    exact ⟨st true true tx0 (rxIn .parity os 0 8) (pin 32 false 0 true), by revert os; decide⟩

theorem test_witness_RxStartVoteCycle :
    ∀ v : Bool, ∃ s : State, s.script = [] ∧ s.tx.state.legal s.cfg.txParity = true ∧ s.rx.state = .start ∧
      s.tick .rx = true ∧ s.rx.os.toNat = 15 ∧ winVote s.rx.win = v :=
  fun v => ⟨st true true tx0 (rxIn .start 15 (if v then 0b011 else 0b100) 0) (pin 32 false 0 true), by cases v <;> decide⟩

/-- RxDataVoteCycle: DATA's end on a tick, and a data bit's vote. -/
theorem test_witness_RxDataVoteCycle :
    (∃ s : State, s.script = [] ∧ s.tx.state.legal s.cfg.txParity = true ∧ s.rx.state = .data ∧
      s.rx.bitcnt.getLsbD 3 = true ∧ s.tick .rx = true) ∧
    ∃ s : State, s.script = [] ∧ s.tx.state.legal s.cfg.txParity = true ∧ s.rx.state = .data ∧
      s.rx.bitcnt.getLsbD 3 = false ∧ s.tick .rx = true ∧ s.rx.os.toNat = 15 :=
  ⟨⟨st true true tx0 (rxIn .data 0 0 8) (pin 32 false 0 true), by decide⟩,
    ⟨st true true tx0 (rxIn .data 15 0 7) (pin 32 false 0 true), by decide⟩⟩

theorem test_witness_RxParityVoteCycle :
    ∃ s : State, s.script = [] ∧ s.tx.state.legal s.cfg.txParity = true ∧ s.rx.state = .parity ∧ s.cfg.rxParity = true ∧
      s.tick .rx = true ∧ s.rx.os.toNat = 15 :=
  ⟨st true true tx0 (rxIn .parity 15 0b111 8) (pin 32 false 0 true), by decide⟩

theorem test_witness_RxStopVoteCycle :
    ∀ parity : Bool, ∃ s : State, s.script = [] ∧ s.tx.state.legal s.cfg.txParity = true ∧ s.rx.state = .stop ∧
      s.cfg.rxParity = parity ∧ s.tick .rx = true ∧ s.rx.os.toNat = 15 :=
  fun parity => ⟨st parity true tx0 (rxIn .stop 15 0b011 8) (pin 32 false 0 true), by cases parity <;> decide⟩

theorem test_witness_StepIsTheTransitionFunction : ∃ s : State, s.script = [] := ⟨idle true, rfl⟩

theorem test_witness_ResetMeetsTheInvariant : ∃ c : Config, c.wf = true := ⟨Config.standard, by decide⟩

theorem test_witness_StepKeepsTheInvariant : ∃ s t : State, Inv s ∧ step s = .next t := ⟨idle true, _, inv_idle true, rfl⟩

theorem test_witness_RunsNeverStop : ∃ s : State, Inv s := ⟨State.reset, inv_reset⟩

/-- ResetValues: the largest draw of each counter. -/
theorem test_witness_ResetValues :
    ∃ (c : Config) (txCnt rxCnt : Nat), txCnt < 2 ^ c.txCntW ∧ rxCnt < 2 ^ c.rxCntW ∧ txCnt + 1 = 2 ^ c.txCntW :=
  ⟨Config.standard, 65535, 65535, by decide⟩

/-- ReachableTransmitterStates: a run from reset that ends in DATA with eight bits sent, at divisor 1. -/
theorem test_witness_ReachableTransmitterStates :
    ∃ (c : Config) (d : ResetDraws) (ins : Nat → Pins) (n : Nat) (t : State), c.wf = true ∧
      runPins ins (State.resetWith c d) n = .next t ∧ t.tx.state = .data ∧ t.tx.bitcnt = 8 :=
  ⟨Config.standard, ResetDraws.zero, oneRequest 1 0xA5 (.ext true), 9, _, by decide, rfl, rfl, rfl⟩

/-- OnlyTheListedTransitions: each of the transmitter's and of the receiver's changes of state. -/
theorem test_witness_transitions_tx :
    ∀ p : TxState × TxState, p ∈ [(TxState.wait, TxState.data), (.data, .parity), (.parity, .stop), (.stop, .wait)] →
      ∃ s t : State, step s = .next t ∧ s.tx.state = p.1 ∧ t.tx.state = p.2 := by
  intro p hp
  simp only [List.mem_cons, List.not_mem_nil, or_false] at hp
  rcases hp with rfl | rfl | rfl | rfl
  · exact ⟨st true true tx0 rx0 (pin 32 true 0 true), _, rfl, rfl, rfl⟩
  · exact ⟨st true true (txIn .data 0 8 true) rx0 (pin 32 false 0 true), _, rfl, rfl, rfl⟩
  · exact ⟨st true true (txIn .parity 31 8 true) rx0 (pin 32 false 0 true), _, rfl, rfl, rfl⟩
  · exact ⟨st true true (txIn .stop 31 8 true) rx0 (pin 32 false 0 true), _, rfl, rfl, rfl⟩
theorem test_witness_transitions_rx :
    ∀ p : RxState × RxState, p ∈ [(RxState.wait, RxState.start), (.start, .data), (.start, .wait), (.data, .parity),
        (.parity, .stop), (.stop, .wait)] →
      ∃ s t : State, step s = .next t ∧ s.rx.state = p.1 ∧ t.rx.state = p.2 := by
  intro p hp
  simp only [List.mem_cons, List.not_mem_nil, or_false] at hp
  rcases hp with rfl | rfl | rfl | rfl | rfl | rfl
  · exact ⟨st true true tx0 { rx0 with cnt := 1 } (pin 32 false 0 false), _, rfl, rfl, rfl⟩
  · exact ⟨st true true tx0 (rxIn .start 15 0b100 0) (pin 32 false 0 true), _, rfl, rfl, rfl⟩
  · exact ⟨st true true tx0 (rxIn .start 15 0b011 0) (pin 32 false 0 true), _, rfl, rfl, rfl⟩
  · exact ⟨st true true tx0 (rxIn .data 0 0 8) (pin 32 false 0 true), _, rfl, rfl, rfl⟩
  · exact ⟨st true true tx0 (rxIn .parity 15 0 8) (pin 32 false 0 true), _, rfl, rfl, rfl⟩
  · exact ⟨st true true tx0 (rxIn .stop 15 0 8) (pin 32 false 0 true), _, rfl, rfl, rfl⟩

/-- EnginesShareOnlyTheDivisor: two states that differ in every RX register and the line; two that differ in the transmitter
and the request. -/
theorem test_witness_EnginesShare_tx :
    ∃ s s' t t' : State, s.script = [] ∧ s'.script = [] ∧ s.cfg = s'.cfg ∧ s.pins.divisor = s'.pins.divisor ∧
      s.drawCtr = s'.drawCtr ∧ step s = .next t ∧ step s' = .next t' ∧ s.tx = s'.tx ∧ s.pins.txReq = s'.pins.txReq ∧
      s.pins.txBuff = s'.pins.txBuff ∧ s.rx ≠ s'.rx ∧ s.rxIn ≠ s'.rxIn :=
  ⟨st true true tx0 rx0 (pin 32 true 0xA5 true), st true true tx0 (rxIn .stop 15 0 8) (pin 32 true 0xA5 false), _, _, rfl, rfl,
    rfl, rfl, rfl, rfl, rfl, rfl, rfl, rfl, by decide, by decide⟩
theorem test_witness_EnginesShare_rx :
    ∃ s s' t t' : State, s.script = [] ∧ s'.script = [] ∧ s.cfg = s'.cfg ∧ s.pins.divisor = s'.pins.divisor ∧
      s.drawCtr = s'.drawCtr ∧ step s = .next t ∧ step s' = .next t' ∧ s.rx = s'.rx ∧ s.rxIn = s'.rxIn ∧ s.tx ≠ s'.tx ∧
      s.pins.txReq ≠ s'.pins.txReq :=
  ⟨st true true tx0 rx0 (pin 32 true 0xA5 true),
    st true true (txIn .data 31 7 true) rx0 { divisor := 32, txBuff := 0, txReq := false, line := .loop }, _, _, rfl, rfl,
    rfl, rfl, rfl, rfl, rfl, rfl, rfl, by decide, by decide⟩

theorem test_witness_BusyRequest :
    ∃ (s t : State) (p : Pins), s.tx.state ≠ .wait ∧ step (s.withPins p) = .next t ∧ p.txReq = false :=
  ⟨st true true (txIn .data 5 1 true) rx0 (pin 32 false 0 true), _, pin 32 false 0 true, by decide, rfl, rfl⟩

/-- TxFrameTimeline, in each variant, at the least divisor. -/
theorem test_witness_TxFrameTimeline :
    ∀ parity : Bool, ∃ (s : State) (ins : Nat → Pins) (D c : Nat), s.cfg.txParity = parity ∧ Inv s ∧ s.tx.state = .wait ∧
      (ins 0).txReq = true ∧ 2 ≤ D ∧ (∀ k, (ins k).divisor.toNat = D) ∧
      (∀ k, txBusy s.cfg.txParity D < k → (ins k).txReq = false) ∧ 1 ≤ c :=
  fun parity => ⟨idle parity, oneRequest 2 0xA5 (.ext true), 2, 1, rfl, inv_idle parity, rfl, rfl, by decide, fun _ => rfl,
    fun _ h => oneRequest_later (by omega), by decide⟩

theorem test_witness_TxFrameAtDivisorOne :
    ∃ (s : State) (ins : Nat → Pins), Inv s ∧ s.cfg.txParity = true ∧ s.tx.state = .wait ∧ (ins 0).txReq = true ∧
      (∀ k, (ins k).divisor = 1) ∧ ∀ k, 12 ≤ k → (ins k).txReq = false :=
  ⟨idle true, oneRequest 1 0xA5 (.ext true), inv_idle true, rfl, rfl, rfl, fun _ => rfl,
    fun _ h => oneRequest_later (by omega)⟩

/-- Both engines in WAIT with `rx_cnt = 1`, so that a low line is a start. -/
def ready (parity : Bool) : State := st parity true tx0 { rx0 with cnt := 1 } (pin 32 false 0 true)

theorem inv_ready (parity : Bool) : Inv (ready parity) := by
  cases parity <;> exact ⟨by decide, ⟨by decide, by decide, by decide, by decide, by decide, by decide⟩,
    ⟨by decide, by decide, by decide, by decide, by decide, by decide, by decide, by decide⟩⟩

/-- ReceptionTimeline, in each variant: a start bit, then a high line. -/
theorem test_witness_ReceptionTimeline :
    ∀ parity : Bool, ∃ (s : State) (ins : Nat → Pins) (level : Nat → Bool) (R : Nat), s.cfg.rxParity = parity ∧ Inv s ∧
      s.rx.state = .wait ∧ (∀ k, (ins k).divisor.toNat / 16 = R) ∧ 2 ≤ R ∧
      (∀ k u, runPins ins s k = .next u → (u.withPins (ins k)).rxIn = level k) ∧
      (s.withPins (ins 0)).detect = true ∧ sampledBit level R 0 = false :=
  fun parity => ⟨ready parity, extLine (fun k => decide (32 ≤ k)) 32, fun k => decide (32 ≤ k), 2, rfl, inv_ready parity, rfl,
    fun _ => (by decide : (32#16).toNat / 16 = 2), by decide, fun _ _ _ => rfl, by cases parity <;> decide, by decide⟩

theorem test_witness_FalseStart :
    ∃ (s : State) (ins : Nat → Pins) (level : Nat → Bool) (R : Nat), Inv s ∧ s.rx.state = .wait ∧
      (∀ k, (ins k).divisor.toNat / 16 = R) ∧ 2 ≤ R ∧
      (∀ k u, runPins ins s k = .next u → (u.withPins (ins k)).rxIn = level k) ∧
      (s.withPins (ins 0)).detect = true ∧ sampledBit level R 0 = true :=
  ⟨ready true, extLine (fun k => decide (1 ≤ k)) 32, fun k => decide (1 ≤ k), 2, inv_ready true, rfl,
    fun _ => (by decide : (32#16).toNat / 16 = 2), by decide, fun _ _ _ => rfl, by decide, by decide⟩

theorem test_witness_IdleLineStability :
    ∃ (s : State) (ins : Nat → Pins), Inv s ∧ s.rx.state = .wait ∧
      ∀ k u, runPins ins s k = .next u → (u.withPins (ins k)).rxIn = true :=
  ⟨State.reset, oneRequest 32 0xA5 (.ext true), inv_reset, rfl, fun _ _ _ => rfl⟩

/-- LoopbackRoundTrip, in each variant, at the least divisor. -/
theorem test_witness_LoopbackRoundTrip :
    ∀ parity : Bool, ∃ (s : State) (ins : Nat → Pins) (D : Nat), s.cfg.rxParity = parity ∧ Inv s ∧
      s.cfg.txParity = s.cfg.rxParity ∧ s.tx.state = .wait ∧ s.tx.q = true ∧ s.rx.state = .wait ∧
      (s.cfg.rxParity = false → s.rx.errorQ = false) ∧ (∀ k, (ins k).divisor.toNat = D ∧ (ins k).line = .loop) ∧
      (ins 0).txReq = true ∧ (∀ k, 1 ≤ k → (ins k).txReq = false) ∧ 32 ≤ D ∧
      frameSpan s.cfg.rxParity * (D % 16) ≤ 9 * (D / 16) :=
  fun parity => ⟨idle parity, oneRequest 32 0xA5 .loop, 32, rfl, inv_idle parity, rfl, rfl, rfl, rfl, fun _ => rfl,
    fun _ => ⟨rfl, rfl⟩, rfl, fun _ h => oneRequest_later h, by decide, by cases parity <;> decide⟩

/-- LoopbackFailsPastTheBound, in each variant, at divisor 47. -/
theorem test_witness_LoopbackFails :
    ∀ parity : Bool, ∃ (s : State) (ins : Nat → Pins) (D : Nat), s.cfg.rxParity = parity ∧ Inv s ∧
      s.cfg.txParity = s.cfg.rxParity ∧ s.tx.state = .wait ∧ s.tx.q = true ∧ s.rx.state = .wait ∧
      (∀ k, (ins k).divisor.toNat = D ∧ (ins k).line = .loop) ∧ (ins 0).txReq = true ∧ (ins 0).txBuff = 0 ∧
      (∀ k, 1 ≤ k → (ins k).txReq = false) ∧ 32 ≤ D ∧ 9 * (D / 16) < frameSpan s.cfg.rxParity * (D % 16) ∧
      ∀ u, runPins ins s 1 = .next u → (u.withPins (ins 1)).detect = true := by
  intro parity
  refine ⟨idle parity, oneRequest 47 0 .loop, 47, rfl, inv_idle parity, rfl, rfl, rfl, rfl, fun _ => ⟨rfl, rfl⟩, rfl, rfl,
    fun _ h => oneRequest_later h, by decide, by cases parity <;> decide, ?_⟩
  cases parity <;> (intro u h; cases h; decide)

/-- RxOutputRegistersWrittenOnlyAtTheVotes: the byte delivered in each variant, the end of a pulse, an error set. -/
theorem test_witness_RxOutputRegisters :
    (∃ s t : State, s.script = [] ∧ step s = .next t ∧ t.rx.buffQ ≠ s.rx.buffQ ∧ s.cfg.rxParity = true) ∧
      (∃ s t : State, s.script = [] ∧ step s = .next t ∧ t.rx.buffQ ≠ s.rx.buffQ ∧ s.cfg.rxParity = false ∧
        rxCondition s .rxStopEnd ∧ t.rx.errorQ ≠ s.rx.errorQ) ∧
      ∃ s t : State, s.script = [] ∧ step s = .next t ∧ s.rx.state = .wait ∧ s.rx.rdyQ = true :=
  ⟨⟨st true true tx0 { rxIn .parity 15 0 8 with acc := 0xA5 } (pin 32 false 0 true), _, rfl, rfl, by decide, rfl⟩,
    ⟨st false true tx0 { rxIn .stop 15 0 8 with acc := 0xA5 } (pin 32 false 0 true), _, rfl, rfl, by decide, rfl,
      by unfold rxCondition; decide, by decide⟩,
    ⟨st true true tx0 { rx0 with rdyQ := true } (pin 32 false 0 true), _, rfl, rfl, rfl, rfl⟩⟩

/-- A receiver at its stop vote, without parity, the vote 0. -/
def badStop : State := st false true tx0 (rxIn .stop 15 0b100 8) (pin 32 false 0 true)

theorem inv_badStop : Inv badStop :=
  ⟨by decide, ⟨by decide, by decide, by decide, by decide, by decide, by decide⟩,
    ⟨by decide, by decide, by decide, by decide, by decide, by decide, by decide, by decide⟩⟩

/-- RxReadyIsAOneCyclePulse: the pulse begins; the pulse ends. -/
theorem test_witness_RxReady :
    (∃ s t : State, Inv s ∧ s.script = [] ∧ step s = .next t ∧ t.rx.rdyQ = true) ∧
      ∃ s t : State, Inv s ∧ s.script = [] ∧ step s = .next t ∧ s.rx.rdyQ = true :=
  ⟨⟨badStop, _, inv_badStop, rfl, rfl, rfl⟩,
    ⟨st true true tx0 { rx0 with rdyQ := true } (pin 32 false 0 true), _,
      ⟨by decide, ⟨by decide, by decide, by decide, by decide, by decide, by decide⟩,
        ⟨by decide, by decide, by decide, by decide, by decide, by decide, by decide, by decide⟩⟩, rfl, rfl, rfl⟩⟩

/-- FramingErrorsAccumulateWithoutParity: an error that the run adds, and one it started from. -/
theorem test_witness_FramingErrors :
    (∃ (s : State) (ins : Nat → Pins) (n : Nat) (t : State), Inv s ∧ s.cfg.rxParity = false ∧ runPins ins s n = .next t ∧
      s.rx.errorQ = false ∧ t.rx.errorQ = true) ∧
    ∃ (s : State) (ins : Nat → Pins) (n : Nat) (t : State), Inv s ∧ s.cfg.rxParity = false ∧ runPins ins s n = .next t ∧
      s.rx.errorQ = true ∧ 0 < n :=
  ⟨⟨badStop, oneRequest 32 0 (.ext true), 1, _, inv_badStop, rfl, rfl, rfl, rfl⟩,
    ⟨st false true tx0 { rx0 with errorQ := true } (pin 32 false 0 true), oneRequest 32 0 (.ext true), 2, _,
      ⟨by decide, ⟨by decide, by decide, by decide, by decide, by decide, by decide⟩,
        ⟨by decide, by decide, by decide, by decide, by decide, by decide, by decide, by decide⟩⟩, rfl, rfl, rfl, by decide⟩⟩

/-- HiddenResetDrawsNeverReachAnOutput: every hidden draw differs. -/
theorem test_witness_HiddenResetDraws :
    ∃ (c : Config) (d d' : ResetDraws) (ins : Nat → Pins) (n : Nat) (t t' : State), c.wf = true ∧ d.rxCnt = d'.rxCnt ∧
      d.rxBuff = d'.rxBuff ∧ runPins ins (State.resetWith c d) n = .next t ∧
      runPins ins (State.resetWith c d') n = .next t' ∧ d.txCnt ≠ d'.txCnt ∧ d.txShift ≠ d'.txShift ∧ d.txPar ≠ d'.txPar ∧
      d.rxWin ≠ d'.rxWin ∧ d.rxAcc ≠ d'.rxAcc :=
  ⟨Config.standard, ResetDraws.zero,
    { txCnt := 9, txShift := 0xFF, txPar := true, rxCnt := 0, rxWin := 7, rxAcc := 0xFF, rxBuff := 0 },
    oneRequest 32 0xA5 (.ext true), 3, _, _, by decide, rfl, rfl, rfl, rfl, by decide⟩

/-- QuiescenceIsStable: the idle outputs not yet up, and up. -/
theorem test_witness_Quiescence :
    (∃ s : State, s.script = [] ∧ s.quiescent = true ∧ s.tx.rdyQ = false) ∧
      ∃ s : State, s.script = [] ∧ s.quiescent = true ∧ s.tx.q = true ∧ s.tx.rdyQ = true ∧ s.rx.rdyQ = false :=
  ⟨⟨st true true { tx0 with rdyQ := false } rx0 (pin 32 false 0 true), by decide⟩, ⟨idle true, by decide⟩⟩

/-- StepLeavesPinsAndParameters: with no command pending, and with one. -/
theorem test_witness_StepLeavesPins :
    (∃ s t : State, step s = .next t ∧ s.script = []) ∧ ∃ s t : State, step s = .next t ∧ s.script ≠ [] :=
  ⟨⟨idle true, _, rfl, rfl⟩, ⟨{ idle true with script := [.req 0xA5] }, _, rfl, by decide⟩⟩

/-- DirectivesDriveThePins: each output up, and each not; commands that take no cycle, a met UNTIL among them. -/
theorem test_witness_Directives :
    (∃ s : State, s.out .txRdy = true ∧ s.out .rxRdy = false) ∧ (∃ s : State, s.out .txRdy = false ∧ s.out .rxRdy = true) ∧
      ∃ (s : State) (cs : List Cmd), ({ s with script := cs } : State).finished = true ∧ cs ≠ [] :=
  ⟨⟨State.reset, by decide⟩, ⟨st true true { tx0 with rdyQ := false } { rx0 with rdyQ := true } (pin 32 false 0 true), by decide⟩,
    ⟨State.reset, [.div 32, .untilOut .txRdy none, .idle 0], by decide⟩⟩

/-- FrameFormat: the last cycle of the stop bit, and the cycle after it. -/
theorem test_witness_FrameFormat :
    (∃ (parity : Bool) (D c : Nat), 1 ≤ D ∧ 1 ≤ c ∧ c = txBusy parity D + D) ∧
      ∃ (parity : Bool) (D c : Nat), 1 ≤ D ∧ 1 ≤ c ∧ c = txBusy parity D + D + 1 :=
  ⟨⟨true, 4, 44, by decide⟩, ⟨false, 4, 41, by decide⟩⟩

theorem test_witness_FrameDirective : ∃ s : State, Inv s := ⟨idle true, inv_idle true⟩

/-- R89: UNTIL with MAX 0 on an output that is not up stops. -/
theorem test_until_timeout :
    stopOf (step { State.reset with script := [.untilOut .rxRdy (some 0)] }) = some (.inr .stimulusTimeout) := by decide

/-- R89, R90, R91: a program that runs into TIMEOUT has no encoding; a request and two cycles of start bit on the looped line,
as P1 begins, with a trailing DIV of no cycle. -/
theorem test_program_encoding :
    (({ parity := true, edgeQ := true, body := [.div 32, .send 0xA5, .idle 2, .untilOut .txRdy (some 0)] } : Program).encoding 9
        ResetDraws.zero = none) ∧
      ({ parity := true, edgeQ := true, body := [.div 32, .send 0xA5, .idle 2, .div 48] } : Program).encoding 9
        ResetDraws.zero = some [(1, 0x3A50020), (2, 0x0000020)] := by decide

/-- R90, R199: P1's first UNTIL takes no cycle, since `tx_rdy` is 1 at reset, so a program of it alone ends at once. -/
theorem test_program_end :
    ((({ parity := true, edgeQ := true, body := [.div 32, .untilOut .txRdy none] } : Program).run 9 ResetDraws.zero).stop,
      (({ parity := true, edgeQ := true, body := [.div 32, .idle 1] } : Program).run 9 ResetDraws.zero).outs) =
      (.ended, [0x003]) := by decide

/-- R86, R90, R91: an idle cycle, a request, and the start bit on the looped line. -/
theorem test_run_length_words :
    runLength (inputTrace 3 (({ parity := true, edgeQ := true, body := [.div 32, .idle 1, .req 0xA5, .idle 1] } :
      Program).load ResetDraws.zero)) = [(1, 0x2000020), (1, 0x3A50020), (1, 0x0000020)] := by decide

end Sys2Proof.Tests
end

section
/-! The reductions of R13, R14 and R150: the bits of a word by position, the XOR of a list of bits as the parity of its ones,
and the majority of three samples. Together they settle O55. -/

namespace Sys2Proof.Machine

/-- R12: `wordBits` lists the bits by position, bit 0 first. -/
theorem wordBits_eq_map_testBit (n w : Nat) : wordBits n w = (List.range n).map w.testBit := by
  induction n generalizing w with
  | zero => rfl
  | succ n ih => simp [wordBits, ih, List.range_succ_eq_map, Nat.testBit_succ, Nat.testBit_zero, Function.comp_def, beq_eq_decide]

theorem wordBits_toNat {n : Nat} (b : BitVec n) : wordBits n b.toNat = (List.range n).map b.getLsbD :=
  wordBits_eq_map_testBit n b.toNat

/-- R13: `xor8` is the XOR of the byte's bits, taken as a list. -/
theorem xor8_eq_foldr_xor (b : Byte) : xor8 b = (wordBits 8 b.toNat).foldr xor false := by
  simp [wordBits_toNat, List.range_succ, xor8]

/-- The XOR of bits is 1 exactly when an odd number of them are: each further 1 turns both. -/
theorem foldr_xor_iff_odd_count (bits : List Bool) : bits.foldr xor false = true ↔ bits.count true % 2 = 1 := by
  induction bits with
  | nil => decide
  | cons bit bits ih =>
    cases bit with
    | false => simpa using ih
    | true =>
      rw [List.foldr_cons, Bool.true_xor, Bool.not_eq_true', ← Bool.not_eq_true, ih, List.count_cons_self]
      omega

theorem xor8_iff_odd_count (b : Byte) : xor8 b = true ↔ (wordBits 8 b.toNat).count true % 2 = 1 := by
  rw [xor8_eq_foldr_xor, foldr_xor_iff_odd_count]

theorem maj3_iff_two_le_count (a b c : Bool) : maj3 a b c = true ↔ 2 ≤ [a, b, c].count true := by
  cases a <;> cases b <;> cases c <;> decide

/-- R166: two samples that agree carry the vote, whatever the sample at the first place is; and so at the other places. -/
@[simp] theorem maj3_agree_last (x v : Bool) : maj3 x v v = v := by
  cases v <;> simp [maj3]

@[simp] theorem maj3_agree_outer (x v : Bool) : maj3 v x v = v := by
  cases v <;> simp [maj3]

@[simp] theorem maj3_agree_first (x v : Bool) : maj3 v v x = v := by
  cases v <;> simp [maj3]

/-- Settles O55: `xor8` by the XOR of a list of bits, the vote by agreement of two samples. When two of three samples `v` are
flipped, the two flipped ones agree on `!v`, so the same three lemmas give both halves of R166. -/
theorem reductionsAndNoiseTolerance : Obligations.ReductionsAndNoiseTolerance :=
  ⟨xor8_iff_odd_count, maj3_iff_two_le_count, fun _ => rfl, fun v x =>
    ⟨maj3_agree_last x v, maj3_agree_outer x v, maj3_agree_first x v,
      maj3_agree_last v (!v), maj3_agree_outer v (!v), maj3_agree_first v (!v)⟩⟩

end Sys2Proof.Machine
end

section
/-! The writes of the rules. `txAfter` and `rxAfter` tabulate what a rule leaves in its engine's registers, as a function of the
parameters, the engine's own registers and the one input the engine reads; `cycle_tx` and `cycle_rx` say that a cycle answers
these registers, so that a proof about an engine is a case split over the rules with their conditions. -/

namespace Sys2Proof.Machine

open Claims

section Conditions

/-- R120: the transmitter's rule meets its condition. -/
theorem txCondition_txChoice (s : State) : txCondition s s.txChoice := by
  unfold State.txChoice
  cases hs : s.tx.state
  case wait => cases hr : s.pins.txReq <;> exact ⟨hs, hr⟩
  case data =>
    cases hb : s.tx.bitcnt.getLsbD 3
    · cases hk : s.tick .tx <;> exact ⟨hs, hb, hk⟩
    · exact ⟨hs, hb⟩
  case parity => cases hk : s.tick .tx <;> exact ⟨hs, hk⟩
  case stop => cases hk : s.tick .tx <;> exact ⟨hs, hk⟩

/-- The oversampling states share HOLD, COUNT and SAMPLE; the vote's condition is the state's own. -/
theorem rxCondition_ovsChoice {s : State} {atVote : Instr} (hs : oversampling s)
    (hv : s.tick .rx = true → s.rx.os.toNat = 15 → rxCondition s atVote) : rxCondition s (s.ovsChoice atVote) := by
  unfold State.ovsChoice
  split
  case isFalse hk => exact ⟨hs, by simpa using hk⟩
  case isTrue hk =>
    split
    case isTrue hp => exact ⟨hs, hk, (samp_iff s).mp hp⟩
    case isFalse hp =>
      split
      case isTrue hl => exact hv hk ((last_iff s).mp hl)
      case isFalse hl => exact ⟨hs, hk, mt (samp_iff s).mpr hp, mt (last_iff s).mpr hl⟩

/-- At the vote tick the oversampling states take their vote. -/
theorem ovsChoice_of_vote {s : State} (hk : s.tick .rx = true) (hos : s.rx.os.toNat = 15) (atVote : Instr) :
    s.ovsChoice atVote = atVote := by
  have hp : s.samp = false := by
    rw [← Bool.not_eq_true, samp_iff]
    omega
  simp [State.ovsChoice, hk, hp, (last_iff s).mpr hos]

/-- R151: the receiver's rule meets its condition. -/
theorem rxCondition_rxChoice (s : State) : rxCondition s s.rxChoice := by
  unfold State.rxChoice
  cases hs : s.rx.state
  case wait =>
    by_cases he : s.edge = true
    · simpa [he] using ⟨hs, (edge_iff s).mp he⟩
    · simpa [he] using ⟨hs, mt (edge_iff s).mpr he⟩
  case start =>
    refine rxCondition_ovsChoice (.inl hs) fun hk hl => ?_
    cases hv : s.vote <;> exact ⟨hs, hk, hl, hv⟩
  case data =>
    cases hb : s.rx.bitcnt.getLsbD 3
    · exact rxCondition_ovsChoice (.inr (.inl ⟨hs, hb⟩)) fun hk hl => ⟨hs, hb, hk, hl⟩
    · exact ⟨hs, hb⟩
  case parity => exact rxCondition_ovsChoice (.inr (.inr (.inl hs))) fun hk hl => ⟨hs, hk, hl⟩
  case stop => exact rxCondition_ovsChoice (.inr (.inr (.inr hs))) fun hk hl => ⟨hs, hk, hl⟩
  case reserved001 => exact hs
  case reserved010 => exact .inl hs
  case reserved011 => exact .inr hs

end Conditions

section Writes

/-- What a transmitter's rule leaves in the TX registers (R121 to R129). -/
def txAfter (c : Config) (txBuff : Byte) (r : TxRegs) : Instr → TxRegs
  | .txWaitIdle => { r with q := true, rdyQ := true }
  | .txWaitAccept =>
    { r with
      shift := txBuff, par := if c.txParity then xor8 txBuff else r.par, q := false, cnt := 0, rdyQ := false, state := .data }
  | .txDataEnd => { r with state := if c.txParity then .parity else .stop }
  | .txDataShift => { r with q := r.shift.getLsbD 0, shift := shiftOut r.shift, bitcnt := r.bitcnt + 1 }
  | .txParityEmit => { r with q := r.par, state := .stop }
  | .txStopEmit => { r with q := true, bitcnt := 0, state := .wait }
  | _ => r

/-- What a receiver's rule leaves in the RX registers when `rx` is at the level `line` (R152 to R162). -/
def rxAfter (c : Config) (line : Bool) (r : RxRegs) : Instr → RxRegs
  | .rxWaitIdle => { r with rdyQ := false }
  | .rxWaitDetect => { r with rdyQ := false, win := insertBit r.win 0 line, cnt := 0, os := 0, state := .start }
  | .rxDataDone => { r with state := if c.rxParity then .parity else .stop }
  | .rxOvsCount => { r with os := r.os + 1 }
  | .rxOvsSample => { r with win := winSample r.win r.os line, os := r.os + 1 }
  | .rxStartConfirm => { r with os := 0, state := .data }
  | .rxStartReject => { r with os := 0, state := .wait }
  | .rxDataBit => { r with acc := shiftIn (winVote r.win) r.acc, bitcnt := r.bitcnt + 1, os := 0 }
  | .rxParityCheck =>
    { r with errorQ := parityError r.acc (winVote r.win), buffQ := r.acc, os := 0, state := .stop }
  | .rxStopEnd =>
    { r with
      errorQ := stopError (winVote r.win) r.errorQ, buffQ := if c.rxParity then r.buffQ else r.acc
      rdyQ := true, bitcnt := 0, os := 0, state := .wait }
  | _ => r

/-- R130: a PARITY rule answers a next state only with TX_PARITY. -/
theorem txParityOnly_eq_next {s t : State} {r : Result} :
    txParityOnly s r = .next t ↔ s.cfg.txParity = true ∧ r = .next t := by
  unfold txParityOnly
  cases s.cfg.txParity <;> simp

/-- R163: an oversampling rule answers a next state only outside PARITY without RX_PARITY. -/
theorem rxLegal_eq_next {s t : State} {r : Result} :
    rxLegal s r = .next t ↔ s.rxParityIllegal = false ∧ r = .next t := by
  unfold rxLegal
  cases s.rxParityIllegal <;> simp

/-- R161, R163. -/
theorem execRxParityCheck_eq_next {s t : State} :
    execRxParityCheck s = .next t ↔
      s.cfg.rxParity = true ∧ t = s.withRx (rxAfter s.cfg s.rxIn s.rx .rxParityCheck) := by
  unfold execRxParityCheck
  cases s.cfg.rxParity <;> simp [rxAfter, State.vote, eq_comm]

theorem exec_tx_eq_next {s a : State} {i : Instr} (hi : txCondition s i) (h : exec i s = .next a) :
    a = s.withTx (txAfter s.cfg s.pins.txBuff s.tx i) := by
  cases i with
  | txParityEmit | txParityHold =>
    obtain ⟨-, hr⟩ := txParityOnly_eq_next.mp h
    cases hr; rfl
  | txWaitIdle | txWaitAccept | txDataEnd | txDataShift | txDataHold | txStopEmit | txStopHold => cases h; rfl
  | _ => exact False.elim hi

theorem exec_rx_eq_next {s b : State} {i : Instr} (hi : rxCondition s i) (h : exec i s = .next b) :
    b = s.withRx (rxAfter s.cfg s.rxIn s.rx i) := by
  cases i with
  | rxOvsHold | rxOvsCount | rxOvsSample =>
    obtain ⟨-, hr⟩ := rxLegal_eq_next.mp h
    cases hr; rfl
  | rxParityCheck => exact (execRxParityCheck_eq_next.mp h).2
  | rxIllegal001 | rxIllegal01X => cases h
  | rxWaitIdle | rxWaitDetect | rxDataDone | rxStartConfirm | rxStartReject | rxDataBit | rxStopEnd => cases h; rfl
  | _ => exact False.elim hi

end Writes

section Cycle
variable {s t : State}

/-- The TX registers after a cycle: the chosen rule's writes, with the counter from the BaudTick. -/
theorem cycle_tx (h : cycle s = .next t) :
    t.tx = { txAfter s.cfg s.pins.txBuff s.tx s.txChoice with cnt := s.nextCnt .tx } := by
  obtain ⟨a, b, ha, -, rfl⟩ := cycle_eq_next.mp h
  rw [exec_tx_eq_next (txCondition_txChoice s) ha, withTx_tx]

/-- The RX registers after a cycle: the chosen rule's writes, with the counter from the BaudTick. -/
theorem cycle_rx (h : cycle s = .next t) :
    t.rx = { rxAfter s.cfg s.rxIn s.rx s.rxChoice with cnt := s.nextCnt .rx } := by
  obtain ⟨a, b, -, hb, rfl⟩ := cycle_eq_next.mp h
  rw [exec_rx_eq_next (rxCondition_rxChoice s) hb, withRx_rx]

/-- R130: TX.PARITY.EMIT completes a cycle only with TX_PARITY. -/
theorem txParity_of_cycle_parityEmit (h : cycle s = .next t) (hi : s.txChoice = .txParityEmit) : s.cfg.txParity = true := by
  obtain ⟨a, b, ha, -, -⟩ := cycle_eq_next.mp h
  rw [hi] at ha
  exact (txParityOnly_eq_next.mp ha).1

/-- R163: RX.PARITY.CHECK completes a cycle only with RX_PARITY. -/
theorem rxParity_of_cycle_parityCheck (h : cycle s = .next t) (hi : s.rxChoice = .rxParityCheck) : s.cfg.rxParity = true := by
  obtain ⟨a, b, -, hb, -⟩ := cycle_eq_next.mp h
  rw [hi] at hb
  exact (execRxParityCheck_eq_next.mp hb).1

/-- A step drives the pins, then runs a cycle on them. -/
theorem step_eq_next (h : step s = .next t) : ∃ u, drive s.script s = some u ∧ cycle u = .next t := by
  unfold step at h
  split at h
  · cases h
  · exact ⟨_, ‹_›, h⟩

/-- Driving the pins leaves a state that differs in the pins and the pending commands alone. -/
theorem withPins_of_drive {cs : List Cmd} {u : State} (h : drive cs s = some u) :
    s.withPins u.pins = u.withPins u.pins := by
  obtain ⟨htx, hrx, hcfg, hctr⟩ := drive_keeps h
  simp [State.withPins, htx, hrx, hcfg, hctr]

end Cycle

section Nibbles

/-- Below 15 an increment does not wrap. -/
theorem toNat_succ_of_ne_15 {c : Nibble} (h : c.toNat ≠ 15) : (c + 1).toNat = c.toNat + 1 := by
  revert c
  decide

/-- R37: bit 3 of the bit counter says that eight bits have been received. -/
theorem bit3_iff_le {c : Nibble} : c.getLsbD 3 = true ↔ 8 ≤ c.toNat := by
  revert c
  decide

end Nibbles

section Congruence
variable {s s' : State}

/-- A pulse depends on the BaudTick's counter and target, and on the draw where there is no target. -/
theorem tick_congr {n : BaudInst} (hT : s.target n = s'.target n) (hcnt : s.cnt n = s'.cnt n)
    (hctr : s.drawCtr = s'.drawCtr) : s.tick n = s'.tick n := by
  unfold State.tick
  rw [hT, hcnt, hctr]

theorem nextCnt_congr {n : BaudInst} (hr : s.restart n = s'.restart n) (hk : s.tick n = s'.tick n)
    (hcnt : s.cnt n = s'.cnt n) (hw : s.cntW n = s'.cntW n) : s.nextCnt n = s'.nextCnt n := by
  unfold State.nextCnt
  rw [hr, hk, hcnt, hw]

/-- The transmitter's rule is chosen by its state, its bit counter, the request and, outside WAIT, the tick (R81). -/
theorem txChoice_congr (hst : s.tx.state = s'.tx.state) (hbit : s.tx.bitcnt = s'.tx.bitcnt)
    (hreq : s.pins.txReq = s'.pins.txReq) (hk : s.tx.state ≠ .wait → s.tick .tx = s'.tick .tx) :
    s.txChoice = s'.txChoice := by
  unfold State.txChoice
  rw [← hst, ← hbit, ← hreq]
  cases hs : s.tx.state
  case wait => rfl
  all_goals rw [hk (by simp [hs])]

/-- The receiver's rule is chosen by its state, its counters, the start condition, the tick and, at a vote, the vote (R82). -/
theorem rxChoice_congr (hst : s.rx.state = s'.rx.state) (hbit : s.rx.bitcnt = s'.rx.bitcnt) (hos : s.rx.os = s'.rx.os)
    (he : s.edge = s'.edge) (hk : s.tick .rx = s'.tick .rx) (hv : s.last = true → s.vote = s'.vote) :
    s.rxChoice = s'.rxChoice := by
  have ovs (atVote : Instr) : s.ovsChoice atVote = s'.ovsChoice atVote := by
    simp [State.ovsChoice, State.samp, State.last, hk, hos]
  have atStart : s.ovsChoice (if s.vote then .rxStartReject else .rxStartConfirm) =
      s'.ovsChoice (if s'.vote then .rxStartReject else .rxStartConfirm) := by
    rw [← ovs]
    unfold State.ovsChoice
    cases hl : s.last
    · rfl
    · rw [hv hl]
  unfold State.rxChoice
  rw [← hst, ← hbit, ← he, atStart]
  simp only [ovs]

end Congruence

/-- A relation that cycles on the same pins keep holds between two runs on the same pins. -/
theorem runPins_related {R : State → State → Prop}
    (hstep : ∀ s s' p t t', R s s' → cycle (s.withPins p) = .next t → cycle (s'.withPins p) = .next t' → R t t')
    {ins : Nat → Pins} {s s' : State} (h : R s s') :
    ∀ {n : Nat} {t t' : State}, runPins ins s n = .next t → runPins ins s' n = .next t' → R t t' := by
  intro n
  induction n with
  | zero =>
    intro t t' ht ht'
    cases ht; cases ht'
    exact h
  | succ n ih =>
    intro t t' ht ht'
    obtain ⟨u, hu, hc⟩ := andThen_eq_next.mp ht
    obtain ⟨u', hu', hc'⟩ := andThen_eq_next.mp ht'
    exact hstep u u' (ins n) t t' (ih hu hu') hc hc'

end Sys2Proof.Machine
end

section
/-! The transitions of the two engines and the writes of the output registers (10_state.md R21, R24, R32, R38, R39). Each is read
off the writes of the rule that fired. -/

namespace Sys2Proof.Machine

open Claims

section Transitions
variable {s t : State}

/-- R24, on the pins of the cycle. -/
theorem cycle_tx_transition (h : cycle s = .next t) (hne : t.tx.state ≠ s.tx.state) :
    (txCondition s .txWaitAccept ∧ t.tx.state = .data) ∨
      (txCondition s .txDataEnd ∧ t.tx.state = if s.cfg.txParity = true then .parity else .stop) ∨
      (txCondition s .txParityEmit ∧ t.tx.state = .stop) ∨ (txCondition s .txStopEmit ∧ t.tx.state = .wait) := by
  have hi := txCondition_txChoice s
  rw [cycle_tx h] at hne ⊢
  generalize s.txChoice = i at hi hne ⊢
  cases i with
  | txWaitAccept => exact .inl ⟨hi, rfl⟩
  | txDataEnd => exact .inr (.inl ⟨hi, rfl⟩)
  | txParityEmit => exact .inr (.inr (.inl ⟨hi, rfl⟩))
  | txStopEmit => exact .inr (.inr (.inr ⟨hi, rfl⟩))
  | _ => exact absurd rfl hne

/-- R32, on the pins of the cycle. -/
theorem cycle_rx_transition (h : cycle s = .next t) (hne : t.rx.state ≠ s.rx.state) :
    (rxCondition s .rxWaitDetect ∧ t.rx.state = .start) ∨
      (rxCondition s .rxStartConfirm ∧ t.rx.state = .data) ∨ (rxCondition s .rxStartReject ∧ t.rx.state = .wait) ∨
      (rxCondition s .rxDataDone ∧ t.rx.state = if s.cfg.rxParity = true then .parity else .stop) ∨
      (rxCondition s .rxParityCheck ∧ t.rx.state = .stop) ∨ (rxCondition s .rxStopEnd ∧ t.rx.state = .wait) := by
  have hj := rxCondition_rxChoice s
  rw [cycle_rx h] at hne ⊢
  generalize s.rxChoice = j at hj hne ⊢
  cases j with
  | rxWaitDetect => exact .inl ⟨hj, rfl⟩
  | rxStartConfirm => exact .inr (.inl ⟨hj, rfl⟩)
  | rxStartReject => exact .inr (.inr (.inl ⟨hj, rfl⟩))
  | rxDataDone => exact .inr (.inr (.inr (.inl ⟨hj, rfl⟩)))
  | rxParityCheck => exact .inr (.inr (.inr (.inr (.inl ⟨hj, rfl⟩))))
  | rxStopEnd => exact .inr (.inr (.inr (.inr (.inr ⟨hj, rfl⟩))))
  | _ => exact absurd rfl hne

end Transitions

/-- Settles O40: the conditions and the transitions look at the state after driving, which differs from `s` in the pins only. -/
theorem onlyTheListedTransitions : Obligations.OnlyTheListedTransitions := by
  intro s t h
  obtain ⟨u, hd, hc⟩ := step_eq_next h
  obtain ⟨htx, hrx, hcfg, -⟩ := drive_keeps hd
  obtain ⟨-, hpins, -, -⟩ := cycle_keeps hc
  rw [hpins, withPins_of_drive hd, ← htx, ← hrx, ← hcfg]
  exact ⟨cycle_tx_transition hc, cycle_rx_transition hc⟩

/-- R21: equal TX registers, request and byte give equal TX registers, for the writes are a function of these. -/
theorem cycle_tx_congr {s s' t t' : State} (hcfg : s.cfg = s'.cfg) (hdiv : s.pins.divisor = s'.pins.divisor)
    (hctr : s.drawCtr = s'.drawCtr) (htx : s.tx = s'.tx) (hreq : s.pins.txReq = s'.pins.txReq)
    (hbuff : s.pins.txBuff = s'.pins.txBuff) (h : cycle s = .next t) (h' : cycle s' = .next t') : t.tx = t'.tx := by
  have hcnt : s.cnt .tx = s'.cnt .tx := congrArg TxRegs.cnt htx
  have hk : s.tick .tx = s'.tick .tx := tick_congr (congrArg BitVec.toNat hdiv) hcnt hctr
  have hnext : s.nextCnt .tx = s'.nextCnt .tx :=
    nextCnt_congr (by simp [State.restart, State.accept, htx, hreq]) hk hcnt (congrArg Config.txCntW hcfg)
  have hi : s.txChoice = s'.txChoice := txChoice_congr (by rw [htx]) (by rw [htx]) hreq fun _ => hk
  rw [cycle_tx h, cycle_tx h', hcfg, hbuff, htx, hi, hnext]

/-- R21: equal RX registers and an equal level on `rx` give equal RX registers. -/
theorem cycle_rx_congr {s s' t t' : State} (hcfg : s.cfg = s'.cfg) (hdiv : s.pins.divisor = s'.pins.divisor)
    (hctr : s.drawCtr = s'.drawCtr) (hrx : s.rx = s'.rx) (hline : s.rxIn = s'.rxIn) (h : cycle s = .next t)
    (h' : cycle s' = .next t') : t.rx = t'.rx := by
  have hcnt : s.cnt .rx = s'.cnt .rx := congrArg RxRegs.cnt hrx
  have hk : s.tick .rx = s'.tick .rx := tick_congr (by rw [target_rx, target_rx, hdiv]) hcnt hctr
  have he : s.edge = s'.edge := by simp [State.edge, State.qual, hline, hrx, hcfg]
  have hnext : s.nextCnt .rx = s'.nextCnt .rx :=
    nextCnt_congr (by simp [State.restart, State.detect, hrx, he]) hk hcnt (congrArg Config.rxCntW hcfg)
  have hj : s.rxChoice = s'.rxChoice :=
    rxChoice_congr (by rw [hrx]) (by rw [hrx]) (by rw [hrx]) he hk fun _ => by rw [State.vote, State.vote, hrx]
  rw [cycle_rx h, cycle_rx h', hcfg, hline, hrx, hj, hnext]

/-- Settles O41. -/
theorem enginesShareOnlyTheDivisor : Obligations.EnginesShareOnlyTheDivisor := by
  intro s s' t t' hs hs' hcfg hdiv hctr h h'
  rw [step_eq_cycle hs] at h
  rw [step_eq_cycle hs'] at h'
  exact ⟨fun htx hreq hbuff => cycle_tx_congr hcfg hdiv hctr htx hreq hbuff h h',
    fun hrx hline => cycle_rx_congr hcfg hdiv hctr hrx hline h h'⟩

section OutputRegisters
variable {s t : State}

/-- R38: `rx_buff_q` is written at the parity vote with parity, at the stop vote without. -/
theorem cycle_buffQ_written (h : cycle s = .next t) (hne : t.rx.buffQ ≠ s.rx.buffQ) :
    (s.cfg.rxParity = true ∧ rxCondition s .rxParityCheck) ∨ (s.cfg.rxParity = false ∧ rxCondition s .rxStopEnd) := by
  have hj := rxCondition_rxChoice s
  have hparity := rxParity_of_cycle_parityCheck h
  rw [cycle_rx h] at hne
  generalize s.rxChoice = j at hj hparity hne
  cases j with
  | rxParityCheck => exact .inl ⟨hparity rfl, hj⟩
  | rxStopEnd =>
    refine .inr ⟨?_, hj⟩
    cases hp : s.cfg.rxParity
    · rfl
    · exact absurd (by simp [rxAfter, hp]) hne
  | _ => exact absurd rfl hne

/-- R38: `rx_error_q` is written at the two votes. -/
theorem cycle_errorQ_written (h : cycle s = .next t) (hne : t.rx.errorQ ≠ s.rx.errorQ) :
    rxCondition s .rxParityCheck ∨ rxCondition s .rxStopEnd := by
  have hj := rxCondition_rxChoice s
  rw [cycle_rx h] at hne
  generalize s.rxChoice = j at hj hne
  cases j with
  | rxParityCheck => exact .inl hj
  | rxStopEnd => exact .inr hj
  | _ => exact absurd rfl hne

/-- R38: `rx_rdy_q` is written at the stop vote and in WAIT. -/
theorem cycle_rdyQ_written (h : cycle s = .next t) (hne : t.rx.rdyQ ≠ s.rx.rdyQ) :
    rxCondition s .rxStopEnd ∨ s.rx.state = .wait := by
  have hj := rxCondition_rxChoice s
  rw [cycle_rx h] at hne
  generalize s.rxChoice = j at hj hne
  cases j with
  | rxStopEnd => exact .inl hj
  | rxWaitIdle | rxWaitDetect => exact .inr hj.1
  | _ => exact absurd rfl hne

/-- R162: the stop vote sets `rx_rdy_q`. -/
theorem cycle_rdyQ_of_stopEnd (h : cycle s = .next t) (hi : rxCondition s .rxStopEnd) : t.rx.rdyQ = true := by
  obtain ⟨hs, hk, hos⟩ := hi
  have hj : s.rxChoice = .rxStopEnd := by
    unfold State.rxChoice
    rw [hs]
    exact ovsChoice_of_vote hk hos .rxStopEnd
  rw [cycle_rx h, hj]
  rfl

/-- R152, R153: both WAIT rules clear `rx_rdy_q`. -/
theorem cycle_rdyQ_of_wait (h : cycle s = .next t) (hs : s.rx.state = .wait) : t.rx.rdyQ = false := by
  rw [cycle_rx h, State.rxChoice, hs]
  cases s.edge <;> rfl

end OutputRegisters

/-- Settles O50. -/
theorem rxOutputRegistersWrittenOnlyAtTheVotes : Obligations.RxOutputRegistersWrittenOnlyAtTheVotes := by
  intro s t hs h
  rw [step_eq_cycle hs] at h
  exact ⟨rfl, rfl, rfl, cycle_buffQ_written h, cycle_rdyQ_of_stopEnd h, cycle_rdyQ_of_wait h, cycle_rdyQ_written h,
    cycle_errorQ_written h⟩

/-- Settles O58. -/
theorem stepLeavesPinsAndParameters : Obligations.StepLeavesPinsAndParameters := by
  intro s t h
  obtain ⟨u, hd, hc⟩ := step_eq_next h
  obtain ⟨-, -, hcfg, -⟩ := drive_keeps hd
  refine ⟨(cycle_keeps hc).1.trans hcfg, fun hs => ?_⟩
  obtain ⟨-, hpins, hscript, -⟩ := cycle_keeps (step_eq_cycle hs ▸ h)
  exact ⟨hpins, hscript.trans hs⟩

end Sys2Proof.Machine
end

section
/-! The reset draws that never reach an output (10_state.md R43): a relation between two runs that differ in them, kept by every
cycle on the same pins. Each register is either equal in the two runs or equal from the moment on at which something reads it. -/

namespace Sys2Proof.Machine

open Claims

/-- TX registers alike up to what a transmitter in WAIT never reads: acceptance writes the counter, the byte and the parity. -/
structure TxAlike (c : Config) (r r' : TxRegs) : Prop where
  state : r.state = r'.state
  bitcnt : r.bitcnt = r'.bitcnt
  q : r.q = r'.q
  rdyQ : r.rdyQ = r'.rdyQ
  cnt : r.state ≠ .wait → r.cnt = r'.cnt
  shift : r.state ≠ .wait → r.shift = r'.shift
  par : r.state ≠ .wait → c.txParity = true → r.par = r'.par

/-- RX registers alike up to the window bits of the current frame bit that are not sampled yet (R157: bit j at tick 7 + j) and
the accumulator bits that are not shifted in yet (R74: from bit 7 down). -/
structure RxAlike (r r' : RxRegs) : Prop where
  state : r.state = r'.state
  cnt : r.cnt = r'.cnt
  os : r.os = r'.os
  bitcnt : r.bitcnt = r'.bitcnt
  buffQ : r.buffQ = r'.buffQ
  rdyQ : r.rdyQ = r'.rdyQ
  errorQ : r.errorQ = r'.errorQ
  win : ∀ j < 3, 7 + j < r.os.toNat → r.win.getLsbD j = r'.win.getLsbD j
  acc : ∀ j < 8, 8 ≤ j + r.bitcnt.toNat → r.acc.getLsbD j = r'.acc.getLsbD j
  full : r.state = .parity ∨ r.state = .stop → 8 ≤ r.bitcnt.toNat

/-- Two states that no output tells apart now or later. -/
structure Alike (s s' : State) : Prop where
  cfg : s.cfg = s'.cfg
  drawCtr : s.drawCtr = s'.drawCtr
  tx : TxAlike s.cfg s.tx s'.tx
  rx : RxAlike s.rx s'.rx

theorem Alike.outputs {s s' : State} (h : Alike s s') : s.outputs = s'.outputs := by
  simp [State.outputs, h.tx.q, h.tx.rdyQ, h.rx.buffQ, h.rx.rdyQ, h.rx.errorQ]

theorem Alike.withPins {s s' : State} (h : Alike s s') (p : Pins) : Alike (s.withPins p) (s'.withPins p) :=
  ⟨h.cfg, h.drawCtr, h.tx, h.rx⟩

/-- Reset states that agree in `rx_cnt` and `rx_buff_q` are alike: both engines are in WAIT. -/
theorem alike_resetWith (c : Config) {d d' : ResetDraws} (hcnt : d.rxCnt = d'.rxCnt) (hbuff : d.rxBuff = d'.rxBuff) :
    Alike (State.resetWith c d) (State.resetWith c d') where
  cfg := rfl
  drawCtr := rfl
  tx := ⟨rfl, rfl, rfl, rfl, fun h => absurd rfl h, fun h => absurd rfl h, fun h => absurd rfl h⟩
  rx :=
    { state := rfl
      cnt := congrArg (· % 2 ^ c.rxCntW) hcnt
      os := rfl
      bitcnt := rfl
      buffQ := hbuff
      rdyQ := rfl
      errorQ := rfl
      win := fun j _ h => absurd h (by simp [State.resetWith])
      acc := fun j hj h => absurd h (by simp [State.resetWith]; omega)
      full := fun h => by simp at h }

section Tx
variable {s s' t t' : State}

/-- The transmitter's rules keep the TX registers alike, whatever the counters `n` and `n'` hold after TX.WAIT.IDLE. -/
theorem txAfter_alike {i : Instr} {n n' : Nat} (h : TxAlike s.cfg s.tx s'.tx) (hi : txCondition s i)
    (hpar : i = .txParityEmit → s.cfg.txParity = true) (hn : i ≠ .txWaitIdle → n = n') :
    TxAlike s.cfg { txAfter s.cfg s.pins.txBuff s.tx i with cnt := n }
      { txAfter s.cfg s.pins.txBuff s'.tx i with cnt := n' } := by
  cases i with
  | txWaitIdle =>
    exact { h with
      q := rfl, rdyQ := rfl
      cnt := fun hb => absurd hi.1 hb, shift := fun hb => absurd hi.1 hb, par := fun hb => absurd hi.1 hb }
  | txWaitAccept =>
    exact { h with
      state := rfl, q := rfl, rdyQ := rfl, cnt := fun _ => hn nofun, shift := fun _ => rfl
      par := fun _ hp => by simp [txAfter, hp] }
  | txDataEnd =>
    have hb : s.tx.state ≠ .wait := by simp [hi.1]
    exact { h with state := rfl, cnt := fun _ => hn nofun, shift := fun _ => h.shift hb, par := fun _ => h.par hb }
  | txDataShift =>
    have hb : s.tx.state ≠ .wait := by simp [hi.1]
    exact { h with
      bitcnt := congrArg (· + 1) h.bitcnt, q := congrArg (BitVec.getLsbD · 0) (h.shift hb)
      cnt := fun _ => hn nofun, shift := fun _ => congrArg shiftOut (h.shift hb), par := fun _ => h.par hb }
  | txParityEmit =>
    have hb : s.tx.state ≠ .wait := by simp [hi.1]
    exact { h with
      state := rfl, q := h.par hb (hpar rfl), cnt := fun _ => hn nofun, shift := fun _ => h.shift hb, par := fun _ => h.par hb }
  | txStopEmit =>
    exact { h with
      state := rfl, bitcnt := rfl, q := rfl
      cnt := fun _ => hn nofun, shift := fun hb => absurd rfl hb, par := fun hb => absurd rfl hb }
  | txDataHold | txParityHold | txStopHold => exact { h with cnt := fun _ => hn nofun }
  | _ => exact False.elim hi

theorem Alike.tx_cycle (h : Alike s s') (hp : s.pins = s'.pins) (hc : cycle s = .next t) (hc' : cycle s' = .next t') :
    TxAlike s.cfg t.tx t'.tx := by
  have hk (hb : s.tx.state ≠ .wait) : s.tick .tx = s'.tick .tx :=
    tick_congr (by rw [target_tx, target_tx, hp]) (h.tx.cnt hb) h.drawCtr
  have hi : s.txChoice = s'.txChoice := txChoice_congr h.tx.state h.tx.bitcnt (by rw [hp]) hk
  have hr : s.restart .tx = s'.restart .tx := by simp [State.restart, State.accept, h.tx.state, hp]
  have hn (hne : s.txChoice ≠ .txWaitIdle) : s.nextCnt .tx = s'.nextCnt .tx := by
    by_cases hb : s.tx.state = .wait
    · have hacc : s.restart .tx = true := by
        rw [restart_tx_iff]
        refine ⟨hb, ?_⟩
        by_contra hreq
        simp [State.txChoice, hb, hreq] at hne
      simp [State.nextCnt, ← hr, hacc]
    · exact nextCnt_congr hr (hk hb) (h.tx.cnt hb) (congrArg Config.txCntW h.cfg)
  rw [cycle_tx hc, cycle_tx hc', ← hi, ← hp, ← h.cfg]
  exact txAfter_alike h.tx (txCondition_txChoice s) (txParity_of_cycle_parityEmit hc) hn

end Tx

section Rx
variable {s s' t t' : State}

/-- At the vote tick the window is sampled whole. -/
theorem RxAlike.winVote_eq {r r' : RxRegs} (h : RxAlike r r') (hos : r.os.toNat = 15) : winVote r.win = winVote r'.win := by
  unfold winVote
  rw [h.win 0 (by decide) (by omega), h.win 1 (by decide) (by omega), h.win 2 (by decide) (by omega)]

/-- In PARITY and STOP the accumulator holds eight received bits. -/
theorem RxAlike.acc_eq {r r' : RxRegs} (h : RxAlike r r') (hst : r.state = .parity ∨ r.state = .stop) : r.acc = r'.acc := by
  have hfull := h.full hst
  exact BitVec.eq_of_getLsbD_eq fun j hj => h.acc j hj (by omega)

/-- The window after an oversample tick: the bit sampled now, if there is one, is the same, and no other bit becomes readable. -/
theorem winSample_alike {w w' : BitVec 3} {os : Nibble} (line : Bool) (hos : os.toNat ≠ 15)
    (hw : ∀ j < 3, 7 + j < os.toNat → w.getLsbD j = w'.getLsbD j) :
    ∀ j < 3, 7 + j < (os + 1).toNat → (winSample w os line).getLsbD j = (winSample w' os line).getLsbD j := by
  intro j hj hlt
  rw [toNat_succ_of_ne_15 hos] at hlt
  unfold winSample
  split
  case isTrue hr =>
    rw [insertBit_getLsbD _ _ _ (by omega) j hj, insertBit_getLsbD _ _ _ (by omega) j hj]
    split
    · rfl
    · exact hw j hj (by omega)
  case isFalse hr => exact hw j hj (by omega)

/-- The accumulator after a data bit: the vote enters at bit 7 and the received bits move down by one. -/
theorem shiftIn_alike {a a' : Byte} {bitcnt : Nibble} (v : Bool) (hbit : bitcnt.getLsbD 3 = false)
    (ha : ∀ j < 8, 8 ≤ j + bitcnt.toNat → a.getLsbD j = a'.getLsbD j) :
    ∀ j < 8, 8 ≤ j + (bitcnt + 1).toNat → (shiftIn v a).getLsbD j = (shiftIn v a').getLsbD j := by
  intro j hj hle
  have hlt : ¬ 8 ≤ bitcnt.toNat := by rw [← bit3_iff_le, hbit]; decide
  rw [toNat_succ_of_ne_15 (by omega)] at hle
  rw [shiftIn_getLsbD v a j hj, shiftIn_getLsbD v a' j hj]
  split
  · rfl
  · exact ha (j + 1) (by omega) (by omega)

/-- The receiver's rules keep the RX registers alike when the level on `rx` is the same. -/
theorem rxAfter_alike {i : Instr} (h : RxAlike s.rx s'.rx) (hi : rxCondition s i) (n : Nat) :
    RxAlike { rxAfter s.cfg s.rxIn s.rx i with cnt := n } { rxAfter s.cfg s.rxIn s'.rx i with cnt := n } := by
  have unsampled {w w' : BitVec 3} : ∀ j < 3, 7 + j < (0#4).toNat → w.getLsbD j = w'.getLsbD j :=
    fun _ _ hlt => absurd hlt (Nat.not_lt_zero _)
  have hos := congrArg (· + 1) h.os
  cases i with
  | rxWaitIdle => exact { h with cnt := rfl, rdyQ := rfl }
  | rxWaitDetect =>
    exact { h with state := rfl, cnt := rfl, os := rfl, rdyQ := rfl, win := unsampled, full := by simp [rxAfter] }
  | rxDataDone => exact { h with state := rfl, cnt := rfl, full := fun _ => bit3_iff_le.mp hi.2 }
  | rxOvsHold => exact { h with cnt := rfl }
  | rxOvsCount =>
    obtain ⟨-, -, hsamp, hlast⟩ := hi
    have hwin := winSample_alike s.rxIn hlast h.win
    simp only [winSample, if_neg hsamp] at hwin
    exact { h with cnt := rfl, os := hos, win := hwin }
  | rxOvsSample =>
    obtain ⟨-, -, -, hle⟩ := hi
    have hwin := winSample_alike s.rxIn (by omega) h.win
    exact { h with cnt := rfl, os := hos, win := by simpa only [rxAfter, ← h.os] using hwin }
  | rxStartConfirm | rxStartReject =>
    exact { h with state := rfl, cnt := rfl, os := rfl, win := unsampled, full := by simp [rxAfter] }
  | rxDataBit =>
    obtain ⟨hst, hbit, -, hlast⟩ := hi
    have hacc := shiftIn_alike (winVote s.rx.win) hbit h.acc
    exact { h with
      cnt := rfl, os := rfl, bitcnt := congrArg (· + 1) h.bitcnt, win := unsampled
      acc := by simpa only [rxAfter, ← h.winVote_eq hlast] using hacc
      full := by simp [rxAfter, hst] }
  | rxParityCheck =>
    obtain ⟨hst, -, hlast⟩ := hi
    have hacc := h.acc_eq (.inl hst)
    exact { h with
      state := rfl, cnt := rfl, os := rfl, win := unsampled, buffQ := hacc
      errorQ := congrArg₂ parityError hacc (h.winVote_eq hlast), full := fun _ => h.full (.inl hst) }
  | rxStopEnd =>
    obtain ⟨hst, -, hlast⟩ := hi
    have hacc := h.acc_eq (.inr hst)
    exact { h with
      state := rfl, cnt := rfl, os := rfl, bitcnt := rfl, rdyQ := rfl, win := unsampled
      buffQ := by simp only [rxAfter, h.buffQ, hacc]
      errorQ := congrArg₂ stopError (h.winVote_eq hlast) h.errorQ
      acc := fun j hj hle => absurd hj (Nat.not_lt.mpr hle)
      full := by simp [rxAfter] }
  | rxIllegal001 | rxIllegal01X => exact { h with cnt := rfl }
  | _ => exact False.elim hi

theorem Alike.rx_cycle (h : Alike s s') (hp : s.pins = s'.pins) (hc : cycle s = .next t) (hc' : cycle s' = .next t') :
    RxAlike t.rx t'.rx := by
  have hcnt : s.cnt .rx = s'.cnt .rx := h.rx.cnt
  have hline : s.rxIn = s'.rxIn := by simp [State.rxIn, hp, h.tx.q]
  have hk : s.tick .rx = s'.tick .rx := tick_congr (by rw [target_rx, target_rx, hp]) hcnt h.drawCtr
  have he : s.edge = s'.edge := by simp [State.edge, State.qual, hline, h.rx.cnt, h.cfg]
  have hn : s.nextCnt .rx = s'.nextCnt .rx :=
    nextCnt_congr (by simp [State.restart, State.detect, h.rx.state, he]) hk hcnt (congrArg Config.rxCntW h.cfg)
  have hi : s.rxChoice = s'.rxChoice :=
    rxChoice_congr h.rx.state h.rx.bitcnt h.rx.os he hk fun hl => h.rx.winVote_eq ((last_iff s).mp hl)
  rw [cycle_rx hc, cycle_rx hc', ← hi, ← h.cfg, ← hline, ← hn]
  exact rxAfter_alike h.rx (rxCondition_rxChoice s) _

end Rx

/-- Cycles on the same pins keep states alike. -/
theorem alike_cycle {s s' t t' : State} (h : Alike s s') (hp : s.pins = s'.pins) (hc : cycle s = .next t)
    (hc' : cycle s' = .next t') : Alike t t' := by
  obtain ⟨hcfg, -, -, hctr⟩ := cycle_keeps hc
  obtain ⟨hcfg', -, -, hctr'⟩ := cycle_keeps hc'
  exact ⟨by rw [hcfg, hcfg', h.cfg], by rw [hctr, hctr', h.drawCtr], hcfg ▸ h.tx_cycle hp hc hc', h.rx_cycle hp hc hc'⟩

/-- Settles O53: reset states that differ in the hidden draws are alike, and alike states stay so and show the same outputs. -/
theorem hiddenResetDrawsNeverReachAnOutput : Obligations.HiddenResetDrawsNeverReachAnOutput := by
  intro c d d' ins n t t' _ hcnt hbuff ht ht'
  have halike : Alike t t' :=
    runPins_related (R := Alike) (fun _ _ p _ _ h hc hc' => alike_cycle (h.withPins p) rfl hc hc')
      (alike_resetWith c hcnt hbuff) ht ht'
  exact halike.outputs

end Sys2Proof.Machine
end

section
/-! The selector tables of 30_encoding.md R81 to R83: a word decodes to the rule of the row it selects, and no word selects two
rows, because any two rows of a table disagree in a bit that both masks fix. -/

namespace Sys2Proof

open Claims

section Bits

/-- `w & mask == value & mask` is agreement in bit 0, where the mask has it, and agreement of what is left. -/
theorem and_eq_and_iff_div_two (w v m : Nat) :
    w &&& m = v &&& m ↔ (m % 2 = 1 → w % 2 = v % 2) ∧ w / 2 &&& m / 2 = v / 2 &&& m / 2 := by
  have split_at_bit0 (a b : Nat) : a = b ↔ a % 2 = b % 2 ∧ a / 2 = b / 2 := by omega
  have hw := Nat.and_mod_two_eq_one (a := w) (b := m)
  have hv := Nat.and_mod_two_eq_one (a := v) (b := m)
  rw [split_at_bit0, Nat.and_div_two, Nat.and_div_two]
  refine and_congr_left fun _ => ?_
  omega

/-- The bit by bit comparison of a decoder row is the masked comparison of numbers. -/
theorem maskedEq_wordBits {n mask : Nat} (value w : Nat) (hmask : mask < 2 ^ n) :
    maskedEq mask value (wordBits n w) = true ↔ w &&& mask = value &&& mask := by
  induction n generalizing mask value w with
  | zero =>
    obtain rfl : mask = 0 := by simpa using hmask
    simp [wordBits, maskedEq]
  | succ n ih =>
    have hbit0 : (mask % 2 == 0 || (w % 2 == 1) == (value % 2 == 1)) = true ↔ (mask % 2 = 1 → w % 2 = value % 2) := by
      rw [Bool.or_eq_true, beq_iff_eq, beq_iff_eq, Bool.eq_iff_iff, beq_iff_eq, beq_iff_eq]
      omega
    rw [wordBits, maskedEq, Bool.and_eq_true, hbit0, ih _ _ (by omega), ← and_eq_and_iff_div_two]

@[simp] theorem wordBits_length (n w : Nat) : (wordBits n w).length = n := by
  induction n generalizing w with
  | zero => rfl
  | succ n ih => simp [wordBits, ih]

theorem bitsWord_lt (bits : List Bool) : bitsWord bits < 2 ^ bits.length := by
  induction bits with
  | nil => simp [bitsWord]
  | cons b bits ih =>
    have := b.toNat_le
    simp only [bitsWord, List.length_cons]
    omega

/-- R12: a word made of bits has these bits. -/
theorem wordBits_bitsWord (bits : List Bool) : wordBits bits.length (bitsWord bits) = bits := by
  induction bits with
  | nil => rfl
  | cons b bits ih =>
    have hdiv : (b.toNat + 2 * bitsWord bits) / 2 = bitsWord bits := by have := b.toNat_lt; omega
    have hmod : ((b.toNat + 2 * bitsWord bits) % 2 == 1) = b := by cases b <;> simp [Nat.add_mod]
    simp only [List.length_cons, bitsWord, wordBits, hdiv, hmod, ih]

/-- Decoding a word's bits and decoding the word are the same. -/
theorem decode_bitsWord {t : Table} {bits : List Bool} (h : bits.length = t.width) :
    decode t (bitsWord bits) = decodeBits t bits := by
  have hlt := bitsWord_lt bits
  have hbits := wordBits_bitsWord bits
  rw [h] at hlt hbits
  rw [decode, if_pos hlt, hbits]

end Bits

section Rows

open Laws.WordShape in
/-- Every rule's row lies in its table, and its match inside its mask. -/
theorem wordShape (i : Instr) : Statement i := by
  cases i
  exacts [txWaitIdle, txWaitAccept, txDataEnd, txDataShift, txDataHold, txParityEmit, txParityHold, txStopEmit, txStopHold,
    rxWaitIdle, rxWaitDetect, rxDataDone, rxOvsHold, rxOvsCount, rxOvsSample, rxStartConfirm, rxStartReject, rxDataBit,
    rxParityCheck, rxStopEnd, rxIllegal001, rxIllegal01X, baudRestart _, baudWrap _, baudDraw _, baudInc _]

/-- The row of a rule, from its columns "mask" and "match". -/
def Instr.row (i : Instr) : Row := ⟨i.mask, encode i, i⟩

/-- Each row of a table is the row of a rule of that table. -/
theorem Table.eq_row_of_mem {t : Table} : ∀ r ∈ t.rows, r = r.instr.row ∧ r.instr.table = t := by
  rcases t with _ | _ | (_ | _) <;> decide

/-- A table holds the rows of its rules, and nothing else. -/
theorem Table.mem_rows {t : Table} {r : Row} : r ∈ t.rows ↔ ∃ i : Instr, i.table = t ∧ r = i.row := by
  constructor
  · intro h
    obtain ⟨hrow, htable⟩ := eq_row_of_mem r h
    exact ⟨r.instr, htable, hrow⟩
  · rintro ⟨i, rfl, rfl⟩
    obtain ⟨hmem, -⟩ := wordShape i
    exact hmem

/-- Two rows of a table with the same match in the bits that both masks fix are one row. -/
theorem Table.rows_disagree {t : Table} :
    ∀ r ∈ t.rows, ∀ r' ∈ t.rows, r.value &&& r'.mask = r'.value &&& r.mask → r = r' := by
  rcases t with _ | _ | (_ | _) <;> decide

/-- R84: no word matches two rows. A word that did would give both matches in the bits that both masks fix. -/
theorem Table.row_unique {t : Table} {r r' : Row} {w : Nat} (hr : r ∈ t.rows) (hr' : r' ∈ t.rows)
    (h : w &&& r.mask = r.value) (h' : w &&& r'.mask = r'.value) : r = r' := by
  refine rows_disagree r hr r' hr' ?_
  rw [← h, ← h', Nat.land_assoc, Nat.land_assoc, Nat.land_comm r.mask]

/-- A row of the decoder matches a word exactly when `w & mask == match`: the match has no bit outside the mask. -/
theorem maskedEq_row (t : Table) (w : Nat) {r : Row} (hr : r ∈ t.rows) :
    maskedEq r.mask r.value (wordBits t.width w) = true ↔ w &&& r.mask = r.value := by
  obtain ⟨i, rfl, rfl⟩ := Table.mem_rows.mp hr
  obtain ⟨-, -, hmask, hinside⟩ := wordShape i
  rw [Instr.row, maskedEq_wordBits _ _ hmask, hinside]

/-- R84: the decoder answers the rule of the matching row. -/
theorem decode_eq_ok_iff {t : Table} {w : Nat} {i : Instr} :
    decode t w = .ok i ↔ w < 2 ^ t.width ∧ ∃ r ∈ t.rows, w &&& r.mask = r.value ∧ r.instr = i := by
  unfold decode decodeBits
  by_cases hw : w < 2 ^ t.width
  · rw [if_pos hw, if_pos (wordBits_length _ _)]
    cases hfind : t.rows.find? fun r => maskedEq r.mask r.value (wordBits t.width w) with
    | none =>
      rw [List.find?_eq_none] at hfind
      simp only [hw, true_and, reduceCtorEq, false_iff]
      rintro ⟨r, hr, hsel, -⟩
      exact hfind r hr ((maskedEq_row t w hr).mpr hsel)
    | some r =>
      have hr := List.mem_of_find?_eq_some hfind
      have hmatch := List.find?_some hfind
      have hsel := (maskedEq_row t w hr).mp hmatch
      simp only [hw, true_and, Except.ok.injEq]
      constructor
      · rintro rfl
        exact ⟨r, hr, hsel, rfl⟩
      · rintro ⟨r', hr', hsel', rfl⟩
        rw [Table.row_unique hr hr' hsel hsel']
  · simp [hw]

/-- R82, R84: a word of the table's width that matches no row is refused. -/
theorem decode_eq_noRow {t : Table} {w : Nat} (hw : w < 2 ^ t.width)
    (h : ¬ ∃ r ∈ t.rows, w &&& r.mask = r.value) : decode t w = .error .noRow := by
  have hfind : (t.rows.find? fun r => maskedEq r.mask r.value (wordBits t.width w)) = none := by
    rw [List.find?_eq_none]
    exact fun r hr hm => h ⟨r, hr, (maskedEq_row t w hr).mp hm⟩
  rw [decode, if_pos hw, decodeBits, if_pos (wordBits_length _ _), hfind]

end Rows

/-- Settles O4: the matching row of `decode_eq_ok_iff` is the rule's own, whose columns are its mask and its word. -/
theorem decodeAndEncodeAgree : Obligations.DecodeAndEncodeAgree := by
  intro t w i
  rw [decode_eq_ok_iff]
  constructor
  · rintro ⟨hw, r, hr, hsel, rfl⟩
    obtain ⟨hrow, htable⟩ := Table.eq_row_of_mem r hr
    rw [hrow] at hsel
    exact ⟨htable, hw, hsel⟩
  · rintro ⟨htable, hw, hsel⟩
    exact ⟨hw, i.row, Table.mem_rows.mpr ⟨i, htable, rfl⟩, hsel, rfl⟩

section Maps

/-- A table as the transcription of R81 to R83 lists it: mask, match, rule. -/
def Table.entries (t : Table) : List (Nat × Nat × Instr) := t.rows.map fun r => (r.mask, r.value, r.instr)

theorem txMap_eq_entries : txMap = Table.txsel.entries := rfl
theorem rxMap_eq_entries : rxMap = Table.rxsel.entries := rfl
theorem baudMap_eq_entries (n : BaudInst) : baudMap n = (Table.bsel n).entries := rfl

/-- A word decodes to the rule of the entry it selects. -/
theorem decode_eq_ok_iff_selects {t : Table} {w : Nat} (hw : w < 2 ^ t.width) (i : Instr) :
    decode t w = .ok i ↔ ∃ e ∈ t.entries, selects w e ∧ e.2.2 = i := by
  simp [decode_eq_ok_iff, Table.entries, selects, hw]

theorem Table.exists_entry_iff {t : Table} {w : Nat} :
    (∃ e ∈ t.entries, selects w e) ↔ ∃ r ∈ t.rows, w &&& r.mask = r.value := by
  simp [entries, selects]

theorem Table.entry_unique {t : Table} {w : Nat} {e e' : Nat × Nat × Instr} (he : e ∈ t.entries) (he' : e' ∈ t.entries)
    (h : selects w e) (h' : selects w e') : e' = e := by
  obtain ⟨r, hr, rfl⟩ := List.mem_map.mp he
  obtain ⟨r', hr', rfl⟩ := List.mem_map.mp he'
  rw [row_unique hr hr' h h']

/-- R81, R83: no TXSEL and no BSEL word is without a row. -/
theorem exists_tx_entry : ∀ w < 32, ∃ e ∈ Table.txsel.entries, w &&& e.1 = e.2.1 := by
  decide

theorem exists_baud_entry (n : BaudInst) : ∀ w < 8, ∃ e ∈ (Table.bsel n).entries, w &&& e.1 = e.2.1 := by
  cases n <;> decide

/-- A word that selects an entry selects that one only, and decodes to its rule. -/
theorem selects_one_and_decodes {t : Table} {w : Nat} (hw : w < 2 ^ t.width) (h : ∃ e ∈ t.entries, w &&& e.1 = e.2.1) :
    ∃ e ∈ t.entries, selects w e ∧ (∀ e' ∈ t.entries, selects w e' → e' = e) ∧ decode t w = .ok e.2.2 := by
  obtain ⟨e, he, hsel⟩ := h
  exact ⟨e, he, hsel, fun e' he' => Table.entry_unique he he' hsel,
    (decode_eq_ok_iff_selects hw _).mpr ⟨e, he, hsel, rfl⟩⟩

/-- The word of a list of bits that decodes selects an entry. -/
theorem exists_entry_of_decodeBits {t : Table} {bits : List Bool} {i : Instr} (hlen : bits.length = t.width)
    (h : decodeBits t bits = .ok i) : ∃ e ∈ t.entries, selects (bitsWord bits) e := by
  have hw : bitsWord bits < 2 ^ t.width := hlen ▸ bitsWord_lt bits
  rw [← decode_bitsWord hlen] at h
  obtain ⟨e, he, hsel, -⟩ := (decode_eq_ok_iff_selects hw i).mp h
  exact ⟨e, he, hsel⟩

theorem existsUnique_entry_of_decodeBits {t : Table} {bits : List Bool} {i : Instr} (hlen : bits.length = t.width)
    (h : decodeBits t bits = .ok i) : ∃! e, e ∈ t.entries ∧ selects (bitsWord bits) e := by
  obtain ⟨e, he, hsel⟩ := exists_entry_of_decodeBits hlen h
  exact ⟨e, ⟨he, hsel⟩, fun e' ⟨he', hsel'⟩ => Table.entry_unique he he' hsel hsel'⟩

end Maps

/-- Settles O1. -/
theorem everyTxAndBaudWordDecodesToItsOneRow : Obligations.EveryTxAndBaudWordDecodesToItsOneRow :=
  ⟨fun w hw => selects_one_and_decodes (t := .txsel) hw (exists_tx_entry w hw),
    fun n w hw => selects_one_and_decodes (t := .bsel n) hw (exists_baud_entry n w hw)⟩

/-- Settles O2. -/
theorem rxWordsDecodeByMaskAndMatch : Obligations.RxWordsDecodeByMaskAndMatch := by
  refine ⟨fun w hw i => decode_eq_ok_iff_selects (t := .rxsel) hw i,
    fun w _ r hr r' hr' => Table.entry_unique (t := .rxsel) hr hr', fun w hw hnone => ?_,
    fun s => exists_entry_of_decodeBits (t := .rxsel) rfl (Machine.decode_rxSel s)⟩
  exact decode_eq_noRow (t := .rxsel) hw (mt Table.exists_entry_iff.mpr hnone)

section Fields

theorem toNat_eq_bits_two : ∀ c : BitVec 2, c.toNat = (c.getLsbD 0).toNat + 2 * (c.getLsbD 1).toNat := by
  decide

theorem toNat_eq_bits_three :
    ∀ c : BitVec 3, c.toNat = (c.getLsbD 0).toNat + 2 * (c.getLsbD 1).toNat + 4 * (c.getLsbD 2).toNat := by
  decide

end Fields

namespace Machine

/-- R78. -/
theorem bitsWord_txSel (s : State) :
    bitsWord s.txSel =
      s.tx.state.code.toNat + 4 * s.pins.txReq.toNat + 8 * (s.tick .tx).toNat + 16 * (s.tx.bitcnt.getLsbD 3).toNat := by
  rw [toNat_eq_bits_two]
  simp only [State.txSel, bitsWord]
  omega

/-- R79. -/
theorem bitsWord_rxSel (s : State) :
    bitsWord s.rxSel =
      s.rx.state.code.toNat + 8 * (s.tick .rx).toNat + 16 * s.edge.toNat + 32 * s.samp.toNat + 64 * s.last.toNat +
        128 * s.ddone.toNat + 256 * s.vote.toNat := by
  rw [toNat_eq_bits_three]
  simp only [State.rxSel, bitsWord]
  omega

/-- R80. -/
theorem bitsWord_bSel (n : BaudInst) (s : State) :
    bitsWord (s.bSel n) = (s.target n == 0).toNat + 2 * (s.hit n).toNat + 4 * (s.restart n).toNat := by
  simp only [State.bSel, bitsWord]
  omega

/-- Settles O3. -/
theorem selectorWordsHoldTheirFields : Obligations.SelectorWordsHoldTheirFields := fun s =>
  ⟨bitsWord_txSel s, bitsWord_rxSel s, fun n => bitsWord_bSel n s,
    existsUnique_entry_of_decodeBits (t := .txsel) rfl (decode_txSel s),
    existsUnique_entry_of_decodeBits (t := .rxsel) rfl (decode_rxSel s),
    fun n => existsUnique_entry_of_decodeBits (t := .bsel n) rfl (decode_bSel n s)⟩

end Machine

/-- Settles O5: the six words agree with their rules' in the bits of the masks; 0b001101101 has `samp` and `last` both 1. -/
theorem sampleWordsDecode : Obligations.SampleWordsDecode := by
  have decodes {t : Table} {w : Nat} {i : Instr} (ht : i.table = t) (hw : w < 2 ^ t.width) (h : w &&& i.mask = encode i) :
      decode t w = .ok i := (decodeAndEncodeAgree t w i).mpr ⟨ht, hw, h⟩
  exact ⟨decodes rfl (by decide) rfl, decodes rfl (by decide) rfl, decodes rfl (by decide) rfl,
    decodes rfl (by decide) rfl, decodes rfl (by decide) rfl, decodes rfl (by decide) rfl,
    decode_eq_noRow (by decide) (by decide), if_neg (by decide)⟩

end Sys2Proof
end

section
/-! The rules of the BaudTicks by their conditions (30_encoding.md R83), and a step as the four decoded rules on one state
(R84). -/

namespace Sys2Proof.Machine

open Claims

/-- R83: a BaudTick's rule meets its condition. -/
theorem baudCondition_baudChoice (n : BaudInst) (s : State) : baudCondition n s (s.baudChoice n) := by
  unfold State.baudChoice
  cases hr : s.restart n
  case true => exact ⟨rfl, hr⟩
  case false =>
    by_cases hT : s.target n = 0
    · simpa [hT] using ⟨rfl, hr, hT⟩
    · by_cases hk : s.tick n = true
      · have hcnt : s.cnt n + 1 = s.target n := by simpa [tick_of_target hT] using hk
        simpa [hT, hk] using ⟨rfl, hr, hT, hcnt⟩
      · have hcnt : s.cnt n + 1 ≠ s.target n := by simpa [tick_of_target hT] using hk
        simpa [hT, hk] using ⟨rfl, hr, hT, hcnt⟩

/-- R83: no other rule of a BaudTick does. -/
theorem baudChoice_of_baudCondition {n : BaudInst} {s : State} {i : Instr} (h : baudCondition n s i) :
    s.baudChoice n = i := by
  unfold State.baudChoice
  cases i with
  | baudRestart m =>
    obtain ⟨rfl, hr⟩ := h
    simp [hr]
  | baudWrap m =>
    obtain ⟨rfl, hr, hT, hcnt⟩ := h
    simp [hr, hT, tick_of_target hT, hcnt]
  | baudDraw m =>
    obtain ⟨rfl, hr, hT⟩ := h
    simp [hr, hT]
  | baudInc m =>
    obtain ⟨rfl, hr, hT, hcnt⟩ := h
    simp [hr, hT, tick_of_target hT, hcnt]
  | _ => exact False.elim h

theorem baudChoice_eq_iff {n : BaudInst} {s : State} {i : Instr} : s.baudChoice n = i ↔ baudCondition n s i :=
  ⟨fun h => h ▸ baudCondition_baudChoice n s, baudChoice_of_baudCondition⟩

/-- Settles O8. -/
theorem baudRulesAreChosenByTheirConditions : Obligations.BaudRulesAreChosenByTheirConditions := by
  intro s
  have hdetect : s.restart .rx = true ↔ s.rx.state = .wait ∧ startEdge s := by
    rw [restart_rx_iff, edge_iff]
    rfl
  exact ⟨_, fetch_eq s, fun _ => baudChoice_eq_iff, fun _ => baudChoice_eq_iff, restart_tx_iff s, hdetect⟩

/-- R84: a cycle runs the rules that were fetched on the state it began in, and commits their writes. -/
theorem cycle_of_fetch {s : State} {f : Fetched} (h : fetch s = .ok f) :
    cycle s =
      andThen (exec f.tx s) fun a =>
        andThen (exec f.rx s) fun b =>
          andThen (exec f.txBaud s) fun c =>
            andThen (exec f.rxBaud s) fun d => .next (commit s a b c d) := by
  rw [cycle, h]

/-- Settles O9. -/
theorem stepRunsTheFourDecodedRules : Obligations.StepRunsTheFourDecodedRules := by
  intro s itx irx ibt ibr hs htx hrx hbt hbr
  have hf : fetch s = .ok { tx := itx, rx := irx, txBaud := ibt, rxBaud := ibr } := by
    simp only [fetch, htx, hrx, hbt, hbr]
  rw [step_eq_cycle hs, cycle_of_fetch hf]
  refine ⟨fun a b c d ha hb hc hd => ?_, fun r hr => ?_, fun a r ha hr => ?_⟩
  · simp [ha, hb, hc, hd, commit]
  · simp [hr]
  · simp [ha, hr]

end Sys2Proof.Machine
end

section
/-! The bits of a frame (30_encoding.md R70, R71), in time order and on the line of R132, and the packed words of a cycle (R86,
R87). -/

namespace Sys2Proof.Machine

open Claims

section Frame

theorem wordBits_byte (b : Byte) :
    wordBits 8 b.toNat =
      [b.getLsbD 0, b.getLsbD 1, b.getLsbD 2, b.getLsbD 3, b.getLsbD 4, b.getLsbD 5, b.getLsbD 6, b.getLsbD 7] := by
  rw [wordBits_toNat]
  rfl

/-- The bits FRAME drives, by position (R89). -/
theorem frameLevels_eq (parity : Bool) (b : Byte) (par : Option Bool) (stop : Bool) :
    frameLevels parity b par stop =
      [false, b.getLsbD 0, b.getLsbD 1, b.getLsbD 2, b.getLsbD 3, b.getLsbD 4, b.getLsbD 5, b.getLsbD 6, b.getLsbD 7] ++
        (if parity = true then [par.getD (xor8 b)] else []) ++ [stop] := by
  rw [frameLevels, wordBits_byte]
  rfl

/-- R89: FRAME without PAR and STOP drives the bits of a frame. -/
theorem frameLevels_default (parity : Bool) (b : Byte) : frameLevels parity b none true = frameBits parity b := by
  rw [frameLevels, frameBits, Option.getD_none]

/-- R70: the bits of a frame by position. -/
theorem frameBits_eq (parity : Bool) (b : Byte) :
    frameBits parity b =
      [false, b.getLsbD 0, b.getLsbD 1, b.getLsbD 2, b.getLsbD 3, b.getLsbD 4, b.getLsbD 5, b.getLsbD 6, b.getLsbD 7] ++
        (if parity then [xor8 b] else []) ++ [true] := by
  rw [← frameLevels_default, frameLevels_eq, Option.getD_none]

/-- R71: the parity bit makes the number of ones in start, data and parity even. -/
theorem even_ones_of_parity (b : Byte) : ((frameBits true b).take 10).count true % 2 = 0 := by
  have htake : (frameBits true b).take 10 = false :: (wordBits 8 b.toNat ++ [xor8 b]) := by
    simp [frameBits, List.take_append]
  have hodd := xor8_iff_odd_count b
  rw [htake, List.count_cons_of_ne (by decide), List.count_append]
  cases hx : xor8 b
  · simp only [hx, Bool.false_eq_true, false_iff] at hodd
    simpa using hodd
  · have hodd := hodd.mp hx
    simp only [List.count_singleton_self]
    omega

/-- Which of the D-cycle slots after acceptance holds cycle c. -/
theorem le_mul_iff_slot_lt {D c : Nat} (hD : 1 ≤ D) (hc : 1 ≤ c) (k : Nat) : c ≤ k * D ↔ (c - 1) / D < k := by
  rw [Nat.div_lt_iff_lt_mul hD]
  omega

/-- The level of the line in slot q (R132). -/
def slotLevel (parity : Bool) (b : Byte) (q : Nat) : Bool :=
  if q < 1 then false else if q < 9 then b.getLsbD (q - 1) else if parity = true ∧ q < 10 then xor8 b else true

theorem lineBit_eq_slotLevel (parity : Bool) (b : Byte) {D c : Nat} (hD : 1 ≤ D) (hc : 1 ≤ c) :
    lineBit parity b D c = slotLevel parity b ((c - 1) / D) := by
  simp only [lineBit, slotLevel, ← le_mul_iff_slot_lt hD hc, Nat.one_mul]

/-- Each slot holds the frame's bit of its number. -/
theorem frameBits_getElem? (parity : Bool) (b : Byte) (q : Nat) (hq : q < if parity then 11 else 10) :
    (frameBits parity b)[q]? = some (slotLevel parity b q) := by
  rw [frameBits_eq]
  cases parity
  case false =>
    have hq : q < 10 := hq
    interval_cases q <;> rfl
  case true =>
    have hq : q < 11 := hq
    interval_cases q <;> rfl

theorem slotLevel_of_ge {parity : Bool} {b : Byte} {q : Nat} (hq : ¬ q < if parity then 11 else 10) :
    slotLevel parity b q = true := by
  have h9 : ¬ q < 9 := by split at hq <;> omega
  have hp : ¬ (parity = true ∧ q < 10) := by
    rintro ⟨rfl, hlt⟩
    exact hq (Nat.lt_succ_of_lt hlt)
  rw [slotLevel, if_neg (by omega), if_neg h9, if_neg hp]

theorem txBusy_add (parity : Bool) (D : Nat) : txBusy parity D + D = (if parity then 11 else 10) * D := by
  cases parity <;> simp [txBusy] <;> omega

/-- Settles O56. -/
theorem frameFormat : Obligations.FrameFormat := by
  refine ⟨fun b => ⟨frameBits_eq true b, frameBits_eq false b, even_ones_of_parity b⟩, frameLevels_default,
    fun parity b D c hD hc => ?_⟩
  rw [txBusy_add, ← not_le, le_mul_iff_slot_lt hD hc, lineBit_eq_slotLevel parity b hD hc]
  exact ⟨frameBits_getElem? parity b _, slotLevel_of_ge⟩

end Frame

section CycleWords

/-- R86: an IN word on the pins comes back as the IN word. -/
theorem inWord_ofWord (s : State) (w : BitVec 26) : (s.withPins (Pins.ofWord w)).inWord = w := by
  apply BitVec.eq_of_getLsbD_eq
  intro i hi
  have hline : (s.withPins (Pins.ofWord w)).rxIn = w.getLsbD 25 := rfl
  rw [inWord_getLsbD, hline, withPins_pins, Pins.ofWord]
  simp only [BitVec.getLsbD_extractLsb']
  by_cases h1 : i < 16
  · simp [h1]
  by_cases h2 : i < 24
  · simp [h1, h2, show i - 16 < 8 by omega, show 16 + (i - 16) = i by omega]
  by_cases h3 : i = 24
  · simp [h3]
  · obtain rfl : i = 25 := by omega
    simp

/-- R87, bit by bit. -/
theorem word_getLsbD (o : Outputs) (i : Nat) :
    o.word.getLsbD i =
      if i = 0 then o.tx
      else if i = 1 then o.txRdy
      else if i < 10 then o.rxBuff.getLsbD (i - 2)
      else if i = 10 then o.rxRdy
      else decide (i = 11) && o.rxError := by
  have h : o.word.getLsbD i =
      BitVec.getLsbD (w := 1 + 1 + 8 + 1 + 1)
        (BitVec.ofBool o.rxError ++ BitVec.ofBool o.rxRdy ++ o.rxBuff ++ BitVec.ofBool o.txRdy ++ BitVec.ofBool o.tx) i := rfl
  rw [h, BitVec.getLsbD_append, BitVec.getLsbD_append, BitVec.getLsbD_append, BitVec.getLsbD_append]
  by_cases h0 : i = 0
  · simp [h0]
  by_cases h1 : i = 1
  · simp [h1]
  have h0' : ¬ i < 1 := by omega
  have h1' : ¬ i - 1 < 1 := by omega
  by_cases h2 : i < 10
  · have h2' : i - 1 - 1 < 8 := by omega
    simp only [h0, h1, h2, h0', h1', h2', if_true, if_false]
    rfl
  have h2' : ¬ i - 1 - 1 < 8 := by omega
  by_cases h3 : i = 10
  · simp [h3]
  · have h3' : ¬ i - 1 - 1 - 8 < 1 := by omega
    have h4 : i - 1 - 1 - 8 - 1 = 0 ↔ i = 11 := by omega
    simp only [h0, h1, h2, h3, h0', h1', h2', h3', h4, if_false, BitVec.getLsbD_ofBool]

/-- Settles O57. -/
theorem cycleWordsPackTheSignals : Obligations.CycleWordsPackTheSignals := by
  refine ⟨fun s => ?_, inWord_ofWord, fun s p => ⟨word_getLsbD _ 0, word_getLsbD _ 1, ?_, word_getLsbD _ 10,
    word_getLsbD _ 11, rfl⟩⟩
  · have hpins := ofWord_inWord s
    simp only [Pins.ofWord, Pins.mk.injEq, Line.ext.injEq] at hpins
    exact hpins
  · apply BitVec.eq_of_getLsbD_eq
    intro i hi
    have h1 : 2 + i ≠ 1 := by omega
    have h2 : 2 + i < 10 := by omega
    simp [word_getLsbD, State.outputs, hi, h1, h2]

end CycleWords

end Sys2Proof.Machine
end

section
/-! Legal states (30_encoding.md R85): a cycle from one answers a next state, and that state is legal again. -/

namespace Sys2Proof.Machine

open Claims

section Legal
variable {s t : State}

theorem legal_iff : s.legal = true ↔ s.tx.state.legal s.cfg.txParity = true ∧ s.rx.state.legal s.cfg.rxParity = true :=
  Bool.and_eq_true_iff

theorem Inv.legal (h : Inv s) : s.legal = true := by
  refine legal_iff.mpr ⟨?_, h.rx.legal⟩
  cases hs : s.tx.state
  case parity => exact h.tx.parity_on hs
  all_goals rfl

/-- The transmitter's rules lead to states the variant has. -/
theorem txAfter_legal {i : Instr} (b : Byte) (hi : txCondition s i) (h : s.tx.state.legal s.cfg.txParity = true) :
    (txAfter s.cfg b s.tx i).state.legal s.cfg.txParity = true := by
  cases i with
  | txDataEnd => cases hp : s.cfg.txParity <;> simp [txAfter, TxState.legal, hp]
  | txWaitAccept | txParityEmit | txStopEmit => rfl
  | txWaitIdle | txDataShift | txDataHold | txParityHold | txStopHold => exact h
  | _ => exact False.elim hi

/-- The receiver's rules lead to states the variant has. -/
theorem rxAfter_legal {i : Instr} (level : Bool) (hi : rxCondition s i) (h : s.rx.state.legal s.cfg.rxParity = true) :
    (rxAfter s.cfg level s.rx i).state.legal s.cfg.rxParity = true := by
  cases i with
  | rxDataDone => cases hp : s.cfg.rxParity <;> simp [rxAfter, RxState.legal, hp]
  | rxWaitDetect | rxStartConfirm | rxStartReject | rxParityCheck | rxStopEnd => rfl
  | rxWaitIdle | rxOvsHold | rxOvsCount | rxOvsSample | rxDataBit | rxIllegal001 | rxIllegal01X => exact h
  | _ => exact False.elim hi

/-- R85: cycles keep the states legal. -/
theorem cycle_legal (h : s.legal = true) (hc : cycle s = .next t) : t.legal = true := by
  obtain ⟨htx, hrx⟩ := legal_iff.mp h
  rw [legal_iff, (cycle_keeps hc).1, cycle_tx hc, cycle_rx hc]
  exact ⟨txAfter_legal _ (txCondition_txChoice s) htx, rxAfter_legal _ (rxCondition_rxChoice s) hrx⟩

/-- R163, R130: no cycle faults from a legal state. -/
theorem exists_cycle_of_legal (h : s.legal = true) : ∃ t, cycle s = .next t := by
  obtain ⟨htx, hrx⟩ := legal_iff.mp h
  obtain ⟨a, ha, -⟩ := exec_txChoice s htx
  obtain ⟨b, hb, -⟩ := exec_rxChoice s hrx
  exact ⟨_, cycle_eq_next.mpr ⟨a, b, ha, hb, rfl⟩⟩

end Legal

end Sys2Proof.Machine
end

section
/-! Directives (30_encoding.md R89 to R91): what pending commands make of a step, and when they have ended. -/

namespace Sys2Proof.Machine

section Driving

/-- Other commands pending. -/
def State.withScript (s : State) (cs : List Cmd) : State := { s with script := cs }

/-- Another driver on the line (R89, LINE). -/
def State.withLine (s : State) (l : Line) : State := { s with pins := { s.pins with line := l } }

@[simp] theorem withScript_script (s : State) (cs : List Cmd) : (s.withScript cs).script = cs := rfl

variable {s t : State} {cs ds : List Cmd}

/-- Driving looks at the commands it is given. -/
@[simp] theorem drive_withScript : drive cs (s.withScript ds) = drive cs s := drive_script cs s ds

/-- With commands pending that put the state's pins at a cycle's levels, a step is that cycle. -/
theorem step_of_drive_some (h : drive cs s = some t) : step (s.withScript cs) = cycle t :=
  step_eq_of_drive (drive_withScript.trans h)

theorem step_of_drive_none (h : drive cs s = none) : step (s.withScript cs) = .refused .stimulusTimeout := by
  rw [step, withScript_script, drive_withScript, h]

/-- Commands that drive alike step alike. -/
theorem step_of_drive_eq (h : drive cs s = drive ds t) : step (s.withScript cs) = step (t.withScript ds) := by
  simp only [step, withScript_script, drive_withScript, h]

/-- R89: DIV and LINE take no cycle. -/
theorem drive_div (n : Divisor) :
    drive (.div n :: cs) s = drive cs { s with pins := { s.pins with divisor := n } } := rfl

theorem drive_line (l : Line) : drive (.line l :: cs) s = drive cs (s.withLine l) := rfl

/-- R90: an empty IDLE takes no cycle, and ends a request. -/
theorem drive_idle_zero : drive (.idle 0 :: cs) s = drive cs s.release := rfl

theorem drive_idle_succ (n : Nat) : drive (.idle (n + 1) :: cs) s = some (s.release.withScript (.idle n :: cs)) := rfl

/-- R89: a met UNTIL takes no cycle. -/
theorem drive_untilOut_met {o : OutSel} {m : Option Nat} (h : s.out o = true) :
    drive (.untilOut o m :: cs) s = drive cs s.release := by
  simp only [drive, h, if_true]

/-- R89: an unmet UNTIL without MAX runs a cycle and stays. -/
theorem drive_untilOut_unmet {o : OutSel} (h : s.out o = false) :
    drive (.untilOut o none :: cs) s = some (s.release.withScript (.untilOut o none :: cs)) := by
  simp only [drive, h, Bool.false_eq_true, if_false]
  rfl

/-- R89: an unmet UNTIL counts its MAX down. -/
theorem drive_untilOut_unmet_succ {o : OutSel} {k : Nat} (h : s.out o = false) :
    drive (.untilOut o (some (k + 1)) :: cs) s = some (s.release.withScript (.untilOut o (some k) :: cs)) := by
  simp only [drive, h, Bool.false_eq_true, if_false]
  rfl

/-- R89: at MAX 0 an unmet UNTIL stops the program (log 13). -/
theorem drive_untilOut_timeout {o : OutSel} (h : s.out o = false) : drive (.untilOut o (some 0) :: cs) s = none := by
  simp only [drive, h, Bool.false_eq_true, if_false]

/-- Whether a state's program has ended depends on its registers and the commands alone. -/
theorem finished_withScript (s : State) (cs : List Cmd) : (s.withScript cs).finished = exhausted cs s :=
  exhausted_of_regs cs rfl rfl

theorem exhausted_idle (n : Nat) : exhausted (.idle n :: cs) s = (n == 0 && exhausted cs s) := by
  cases n with
  | zero => simp [exhausted]
  | succ n => rfl

theorem exhausted_input (n : Nat) (w : BitVec 26) : exhausted (.input n w :: cs) s = (n == 0 && exhausted cs s) := by
  cases n with
  | zero => simp [exhausted]
  | succ n => rfl

end Driving

/-- Settles O59. -/
theorem directivesDriveThePins : Obligations.DirectivesDriveThePins := by
  intro s cs playing released requesting
  have hfin (x : List Cmd) : (playing x).finished = exhausted x s := finished_withScript s x
  refine ⟨
    fun n => step_of_drive_eq (drive_div n),
    fun l => step_of_drive_eq (drive_line l),
    fun b => step_of_drive_some rfl,
    step_of_drive_eq drive_idle_zero,
    fun n => step_of_drive_some (drive_idle_succ n),
    fun o m h => step_of_drive_eq (drive_untilOut_met h),
    fun o h => step_of_drive_some (drive_untilOut_unmet h),
    fun o k h => step_of_drive_some (drive_untilOut_unmet_succ h),
    fun o h => step_of_drive_none (drive_untilOut_timeout h),
    fun w => step_of_drive_eq rfl,
    fun n w => step_of_drive_some rfl,
    fun parity b =>
      ⟨fun h => step_of_drive_some (drive_untilOut_met h), fun h => step_of_drive_some (drive_untilOut_unmet h)⟩,
    fun parity =>
      ⟨fun h => step_of_drive_eq (drive_untilOut_met (o := .rxRdy) h),
        fun h => step_of_drive_some (drive_untilOut_unmet (o := .rxRdy) h)⟩,
    fun parity k =>
      ⟨step_of_drive_some rfl, step_of_drive_eq (t := s.release.withLine (.ext true)) rfl⟩,
    hfin [], fun n => ?_, fun l => ?_, fun b => hfin _, fun n => ?_, fun o m => ?_, fun n w => ?_,
    fun n h => play_of_finished h n⟩
  all_goals simp only [hfin, exhausted, exhausted_idle, exhausted_input]

end Sys2Proof.Machine
end

section
/-! FRAME on the line (30_encoding.md R89). A legal state runs every cycle, so the levels that pending commands put on the pins
appear in the input words one by one. -/

namespace Sys2Proof.Machine

section InputWords
variable {s t : State}

/-- The level on `rx` and the request of a cycle (R86: bits 25 and 24 of its input word). -/
def lineAndReq (w : BitVec 26) : Bool × Bool := (w.getLsbD 25, w.getLsbD 24)

/-- Their values in each of the next n cycles. -/
def lineTrace (n : Nat) (s : State) : List (Bool × Bool) := (inputTrace n s).map lineAndReq

theorem lineTrace_zero (s : State) : lineTrace 0 s = [] := rfl

theorem lineAndReq_inWord (s : State) : lineAndReq s.inWord = (s.rxIn, s.pins.txReq) :=
  Prod.ext (inWord_getLsbD s 25) (inWord_getLsbD s 24)

/-- The next cycles depend on the pending commands only through the driving of the pins. -/
theorem lineTrace_congr {cs ds : List Cmd} (h : drive cs s = drive ds t) (n : Nat) :
    lineTrace n (s.withScript cs) = lineTrace n (t.withScript ds) := by
  cases n with
  | zero => rfl
  | succ n => simp only [lineTrace, inputTrace, withScript_script, drive_withScript, h]

/-- A legal state shows the cycle that the commands drive, and goes on from a legal state with the same pins. -/
theorem exists_lineTrace_succ {cs ds : List Cmd} (hs : s.legal = true) (hd : drive cs t = some (s.withScript ds)) :
    ∃ v : State, v.legal = true ∧ v.pins = s.pins ∧
      ∀ n, lineTrace (n + 1) (t.withScript cs) = (s.rxIn, s.pins.txReq) :: lineTrace n (v.withScript ds) := by
  obtain ⟨v, hv⟩ := exists_cycle_of_legal (s := s.withScript ds) hs
  obtain ⟨-, hpins, hscript, -⟩ := cycle_keeps hv
  have hself : v.withScript ds = v := by rw [← show v.script = ds from hscript]; rfl
  refine ⟨v, cycle_legal (s := s.withScript ds) hs hv, hpins, fun n => ?_⟩
  have hfirst : lineAndReq (s.withScript ds).inWord = (s.rxIn, s.pins.txReq) := lineAndReq_inWord _
  simp only [lineTrace, inputTrace, withScript_script, drive_withScript, hd, hv, List.map_cons, hfirst, hself]

/-- An IDLE on a line at level l: l for its cycles, without a request; then what is pending after it. -/
theorem lineTrace_idle {l : Bool} (n m : Nat) (cs : List Cmd) (hs : s.legal = true) (hline : s.pins.line = .ext l) :
    ∃ u : State, u.legal = true ∧
      lineTrace (n + m) (s.withScript (.idle n :: cs)) = List.replicate n (l, false) ++ lineTrace m (u.withScript cs) := by
  induction n generalizing s with
  | zero => exact ⟨s.release, hs, by rw [Nat.zero_add]; exact lineTrace_congr drive_idle_zero m⟩
  | succ n ih =>
    obtain ⟨v, hv, hpins, hfirst⟩ := exists_lineTrace_succ (s := s.release) hs (drive_idle_succ (cs := cs) n)
    obtain ⟨u, hu, hrest⟩ := ih hv (by rw [hpins]; exact hline)
    have hlevel : s.release.rxIn = l := by rw [State.rxIn, release_line, hline]
    refine ⟨u, hu, ?_⟩
    rw [Nat.add_right_comm, hfirst, hrest, hlevel]
    rfl

/-- A LINE before other commands takes no cycle. -/
theorem lineTrace_line (n : Nat) (l : Line) (cs : List Cmd) (s : State) :
    lineTrace n (s.withScript (.line l :: cs)) = lineTrace n ((s.withLine l).withScript cs) :=
  lineTrace_congr (drive_line l) n

/-- Levels held for k cycles each appear on the line one after the other, without a request. -/
theorem lineTrace_holdBits (k m : Nat) (cs : List Cmd) (levels : List Bool) (hs : s.legal = true) :
    ∃ u : State, u.legal = true ∧
      lineTrace (levels.length * k + m) (s.withScript (holdBits k levels ++ cs)) =
        (levels.flatMap fun l => List.replicate k l).map (·, false) ++ lineTrace m (u.withScript cs) := by
  induction levels generalizing s with
  | nil => exact ⟨s, hs, by simp [holdBits]⟩
  | cons l levels ih =>
    obtain ⟨v, hv, hfirst⟩ :=
      lineTrace_idle k (levels.length * k + m) (holdBits k levels ++ cs) (s := s.withLine (.ext l)) hs rfl
    obtain ⟨u, hu, hrest⟩ := ih hv
    refine ⟨u, hu, ?_⟩
    rw [hrest] at hfirst
    rw [List.length_cons, Nat.succ_mul, Nat.add_comm _ k, Nat.add_assoc, holdBits, List.cons_append, List.cons_append,
      lineTrace_line, hfirst]
    simp

end InputWords

section Frame

/-- What a trace of levels without a request says of the input words. -/
theorem bits_of_lineTrace {n : Nat} {s : State} {levels : List Bool} (h : lineTrace n s = levels.map (·, false)) :
    (inputTrace n s).map (fun w => w.getLsbD 25) = levels ∧ ∀ w ∈ inputTrace n s, w.getLsbD 24 = false := by
  constructor
  · have hfst := congrArg (List.map Prod.fst) h
    simpa [lineTrace, lineAndReq, Function.comp_def] using hfst
  · intro w hw
    have hmem : lineAndReq w ∈ levels.map (·, false) := h ▸ List.mem_map_of_mem hw
    obtain ⟨l, -, hl⟩ := List.mem_map.mp hmem
    exact (congrArg Prod.snd hl).symm

/-- Settles O60. -/
theorem frameDirectiveDrivesTheLine : Obligations.FrameDirectiveDrivesTheLine := by
  intro s parity b k par stop cs hinv levels frame words
  have hlevels : frameLevels parity b par stop = levels := frameLevels_eq parity b par stop
  have hwords (n : Nat) (rest : List Cmd) :
      words n rest = inputTrace n (s.withScript (holdBits k levels ++ .line (.ext true) :: rest)) := by
    rw [← hlevels, List.append_cons]
    rfl
  have hframe (m : Nat) (rest : List Cmd) := lineTrace_holdBits k m (.line (.ext true) :: rest) levels hinv.legal
  have hheld : lineTrace (levels.length * k) (s.withScript (holdBits k levels ++ .line (.ext true) :: cs)) =
      frame.map (·, false) := by
    obtain ⟨u, -, htrace⟩ := hframe 0 cs
    simpa only [Nat.add_zero, lineTrace_zero, List.append_nil] using htrace
  have hreleased (n : Nat) :
      lineTrace (levels.length * k + n) (s.withScript (holdBits k levels ++ .line (.ext true) :: .idle n :: cs)) =
        (frame ++ List.replicate n true).map (·, false) := by
    obtain ⟨u, hu, htrace⟩ := hframe n (.idle n :: cs)
    obtain ⟨v, -, hidle⟩ := lineTrace_idle n 0 cs (s := u.withLine (.ext true)) hu rfl
    rw [Nat.add_zero, lineTrace_zero] at hidle
    rw [htrace, lineTrace_line, hidle]
    simp [frame]
  simp only [hwords]
  obtain ⟨hline, hreq⟩ := bits_of_lineTrace hheld
  exact ⟨hline, hreq, fun n => bits_of_lineTrace (hreleased n)⟩

end Frame

end Sys2Proof.Machine
end

section
/-! The BaudTicks (40_baudtick.md). `cycle_cnt` and `nextCnt_of_restart_false` give the counter of the next cycle; the laws of
R107 and R108 are the counter of every cycle of a run, by induction over the cycles, as a function of their number. -/

namespace Sys2Proof.Machine

open Claims

section Counter
variable {n : BaudInst} {s t : State}

@[simp] theorem withPins_cnt (n : BaudInst) (s : State) (p : Pins) : (s.withPins p).cnt n = s.cnt n := by
  cases n <;> rfl

@[simp] theorem withPins_cntW (n : BaudInst) (s : State) (p : Pins) : (s.withPins p).cntW n = s.cntW n := by
  cases n <;> rfl

theorem setCnt_eq_withCounter (n : BaudInst) (v : Nat) (s : State) : s.setCnt n v = withCounter n v s := by
  cases n <;> rfl

theorem cntW_congr (h : t.cfg = s.cfg) (n : BaudInst) : t.cntW n = s.cntW n := by
  cases n
  · exact congrArg Config.txCntW h
  · exact congrArg Config.rxCntW h

/-- R25, R33, R131, R164. -/
theorem Inv.cnt_lt (h : Inv s) (n : BaudInst) : s.cnt n < 2 ^ s.cntW n := by
  cases n
  · exact h.tx.cnt_lt
  · exact h.rx.cnt_lt

/-- R9: the counters are wide enough for every target. -/
theorem target_lt_two_pow (h : s.cfg.wf = true) (n : BaudInst) : s.target n < 2 ^ s.cntW n := by
  obtain ⟨htx, hrx⟩ : 16 ≤ s.cfg.txCntW ∧ 12 ≤ s.cfg.rxCntW := by simpa [Config.wf] using h
  cases n
  · exact (target_tx_lt s).trans_le (Nat.pow_le_pow_right Nat.two_pos htx)
  · exact (target_rx_lt s).trans_le (Nat.pow_le_pow_right Nat.two_pos hrx)

/-- R101. -/
theorem tick_iff_of_target (h : s.target n ≠ 0) : s.tick n = true ↔ s.cnt n + 1 = s.target n := by
  rw [tick_of_target h, beq_iff_eq]

theorem tick_of_hit (h : s.hit n = true) : s.tick n = true := by
  have hT : s.target n ≠ 0 := by
    intro hT
    simp [State.hit, hT] at h
  rwa [← hit_eq_tick hT]

/-- R102. -/
theorem nextCnt_of_restart (h : s.restart n = true) : s.nextCnt n = 0 := by
  simp [State.nextCnt, h]

/-- R102, R103, R104. -/
theorem nextCnt_of_tick (h : s.tick n = true) : s.nextCnt n = 0 := by
  simp [State.nextCnt, h]

theorem nextCnt_of_restart_false (h : s.restart n = false) :
    s.nextCnt n = if s.tick n = true then 0 else incCnt (s.cntW n) (s.cnt n) := by
  simp [State.nextCnt, h]

/-- R103, R105: with a target, the counter wraps at it and is incremented elsewhere. -/
theorem nextCnt_of_target (h : s.restart n = false) (hT : s.target n ≠ 0) :
    s.nextCnt n = if s.cnt n + 1 = s.target n then 0 else incCnt (s.cntW n) (s.cnt n) := by
  rw [nextCnt_of_restart_false h, if_congr (tick_iff_of_target hT) rfl rfl]

/-- The counters after a cycle. -/
theorem cycle_cnt (h : cycle s = .next t) (n : BaudInst) : t.cnt n = s.nextCnt n := by
  obtain ⟨a, b, -, -, rfl⟩ := cycle_eq_next.mp h
  cases n <;> rfl

/-- A legal state's step answers a state, with the counters' next values. -/
theorem exists_step_cnt (hs : s.script = []) (hl : s.legal = true) (n : BaudInst) :
    ∃ t, step s = .next t ∧ t.cnt n = s.nextCnt n := by
  obtain ⟨t, ht⟩ := exists_cycle_of_legal hl
  exact ⟨t, (step_eq_cycle hs).trans ht, cycle_cnt ht n⟩

/-- R102 to R105: the meaning of each BaudTick rule is a write of its counter. -/
theorem exec_baudRestart (n : BaudInst) (s : State) : exec (.baudRestart n) s = .next (withCounter n 0 s) :=
  congrArg Host.Outcome.next (setCnt_eq_withCounter n 0 s)

theorem exec_baudWrap (n : BaudInst) (s : State) : exec (.baudWrap n) s = .next (withCounter n 0 s) :=
  congrArg Host.Outcome.next (setCnt_eq_withCounter n 0 s)

theorem exec_baudInc (n : BaudInst) (s : State) :
    exec (.baudInc n) s = .next (withCounter n (incCnt (s.cntW n) (s.cnt n)) s) :=
  congrArg Host.Outcome.next (setCnt_eq_withCounter n _ s)

theorem exec_baudDraw (hT : s.target n = 0) :
    exec (.baudDraw n) s =
      .next (withCounter n (if s.tick n = true then 0 else incCnt (s.cntW n) (s.cnt n)) s) := by
  rw [tick_of_no_target hT]
  exact congrArg Host.Outcome.next (setCnt_eq_withCounter n _ s)

end Counter

/-- Settles O10: a full counter is one below `2^W`, and every target lies below `2^W`. -/
theorem baudWrapAndIncComplete : Obligations.BaudWrapAndIncComplete := by
  intro n s hT
  have hfull (hwf : s.cfg.wf = true) (hcnt : s.cnt n = 2 ^ s.cntW n - 1) : s.tick n = false := by
    have hlt := target_lt_two_pow hwf n
    rw [← Bool.not_eq_true, tick_iff_of_target hT]
    omega
  refine ⟨tick_iff_of_target hT, hfull, exec_baudWrap n s, exec_baudInc n s, fun hs hl hr => ?_⟩
  obtain ⟨t, ht, hcnt⟩ := exists_step_cnt hs hl n
  exact ⟨t, ht, hcnt.trans (nextCnt_of_target hr hT)⟩

/-- Settles O11. -/
theorem baudRestartAndDrawComplete : Obligations.BaudRestartAndDrawComplete := by
  intro n s
  refine ⟨exec_baudRestart n s, fun hT => ⟨tick_of_no_target hT, exec_baudDraw hT⟩, fun hs hl => ?_⟩
  obtain ⟨t, ht, hcnt⟩ := exists_step_cnt hs hl n
  exact ⟨t, ht, fun hr => hcnt.trans (nextCnt_of_restart hr), fun hr _ => hcnt.trans (nextCnt_of_restart_false hr)⟩

/-- R109: the part of the divisor that the receiver drops is its lower four bits. -/
theorem sixteen_mul_shift (D : Divisor) : 16 * (D >>> 4).toNat = D.toNat - (D &&& 15).toNat := by
  have hlow : (D &&& 15).toNat = D.toNat % 16 := by
    rw [BitVec.toNat_and]
    exact Nat.and_two_pow_sub_one_eq_mod D.toNat 4
  rw [hlow, BitVec.toNat_ushiftRight, Nat.shiftRight_eq_div_pow]
  omega

/-- Settles O14: for these divisors the receiver's target is 1, so a counter at 0 wraps in every cycle. -/
theorem receiverTruncatesTheDivisor : Obligations.ReceiverTruncatesTheDivisor := by
  refine ⟨sixteen_mul_shift, fun s t hs hge hle hcnt ht => ?_⟩
  have htarget : s.target .rx = 1 := by
    rw [target_rx]
    omega
  have htick : s.tick .rx = true := by
    rw [tick_iff_of_target (by omega), htarget]
    exact congrArg (· + 1) hcnt
  exact ⟨htick, (cycle_cnt (step_eq_cycle hs ▸ ht) .rx).trans (nextCnt_of_tick htick)⟩

section Runs
variable {n : BaudInst} {s t : State} {ins : Nat → Pins} {T : Nat}

/-- R88: the parameters are fixed for a run. -/
theorem runPins_cfg {j : Nat} (h : runPins ins s j = .next t) : t.cfg = s.cfg := by
  induction j generalizing t with
  | zero => cases h; rfl
  | succ j ih =>
    obtain ⟨u, hu, hc⟩ := andThen_eq_next.mp h
    rw [(cycle_keeps hc).1, withPins_cfg, ih hu]

/-- The next value of a run's counter at a target T, without a restart. -/
theorem cnt_succ_of_target {u : State} {p : Pins} {j : Nat} (hu : runPins ins s j = .next u)
    (hc : cycle (u.withPins p) = .next t) (hr : (u.withPins p).restart n = false) (hT : (u.withPins p).target n = T)
    (hT1 : 1 ≤ T) : t.cnt n = if u.cnt n + 1 = T then 0 else incCnt (s.cntW n) (u.cnt n) := by
  rw [cycle_cnt hc, nextCnt_of_target hr (by omega), hT, withPins_cnt, withPins_cntW, cntW_congr (runPins_cfg hu)]

/-- Counting up to T and then from 0 is counting modulo T. -/
theorem mod_succ_eq_ite (hT : 1 ≤ T) (k : Nat) : (k + 1) % T = if k % T + 1 = T then 0 else k % T + 1 := by
  have hlt : k % T < T := Nat.mod_lt k hT
  rw [← Nat.mod_add_mod]
  split
  case isTrue h => rw [h, Nat.mod_self]
  case isFalse h => exact Nat.mod_eq_of_lt (by omega)

theorem mod_succ_eq_iff_dvd (hT : 1 ≤ T) (k : Nat) : k % T + 1 = T ↔ T ∣ k + 1 := by
  rw [Nat.dvd_iff_mod_eq_zero, mod_succ_eq_ite hT]
  split <;> simp [*]

/-- R107: when cycle 0 leaves 0 in the counter and the target is T from cycle 1 on, `cnt = j - 1` in cycle j, modulo T. -/
theorem runPins_cnt_periodic {k : Nat} (hT1 : 1 ≤ T) (hTW : T < 2 ^ s.cntW n) (hzero : (s.withPins (ins 0)).nextCnt n = 0)
    (hT : ∀ c, 1 ≤ c → ∀ u : State, (u.withPins (ins c)).target n = T)
    (hquiet : ∀ c u, 1 ≤ c → c < k + 1 → runPins ins s c = .next u → (u.withPins (ins c)).restart n = false)
    (h : runPins ins s (k + 1) = .next t) : t.cnt n = k % T := by
  induction k generalizing t with
  | zero =>
    obtain ⟨u, hu, hc⟩ := andThen_eq_next.mp h
    cases hu
    rw [cycle_cnt hc, hzero, Nat.zero_mod]
  | succ k ih =>
    obtain ⟨u, hu, hc⟩ := andThen_eq_next.mp h
    have hcnt : u.cnt n = k % T := ih (fun c v hc1 hck => hquiet c v hc1 (by omega)) hu
    have hlt : k % T < T := Nat.mod_lt k hT1
    have hr := hquiet (k + 1) u (by omega) (by omega) hu
    rw [cnt_succ_of_target hu hc hr (hT _ (by omega) u) hT1, hcnt, incCnt_of_lt (by omega), mod_succ_eq_ite hT1]

/-- R108: the number of cycles to the first pulse, from a count c of a counter modulo M, at a target T. -/
def cyclesToPulse (M c T : Nat) : Nat := if c + 1 ≤ T then T - 1 - c else (M - c) + (T - 1)

/-- Up to then, a counter modulo M stands below its target in that cycle only. -/
theorem add_mod_eq_iff_cyclesToPulse {M c j : Nat} (hc : c < M) (hT1 : 1 ≤ T) (hTM : T < M)
    (hj : j ≤ cyclesToPulse M c T) : (c + j) % M + 1 = T ↔ j = cyclesToPulse M c T := by
  unfold cyclesToPulse at hj ⊢
  split at hj
  case isTrue hle =>
    rw [if_pos hle, Nat.mod_eq_of_lt (by omega)]
    omega
  case isFalse hgt =>
    rw [if_neg hgt]
    by_cases hwrap : c + j < M
    · rw [Nat.mod_eq_of_lt hwrap]
      omega
    · rw [Nat.mod_eq_sub_mod (by omega), Nat.mod_eq_of_lt (by omega)]
      omega

/-- R108: up to the first pulse the counter counts modulo `2^W`. -/
theorem runPins_cnt_to_first_pulse {j : Nat} (hcnt : s.cnt n < 2 ^ s.cntW n) (hT1 : 1 ≤ T) (hTW : T < 2 ^ s.cntW n)
    (hT : ∀ c, ∀ u : State, (u.withPins (ins c)).target n = T)
    (hquiet : ∀ c u, c < j → runPins ins s c = .next u → (u.withPins (ins c)).restart n = false)
    (hj : j ≤ cyclesToPulse (2 ^ s.cntW n) (s.cnt n) T) (h : runPins ins s j = .next t) :
    t.cnt n = (s.cnt n + j) % 2 ^ s.cntW n := by
  induction j generalizing t with
  | zero =>
    cases h
    exact (Nat.mod_eq_of_lt hcnt).symm
  | succ j ih =>
    obtain ⟨u, hu, hc⟩ := andThen_eq_next.mp h
    have hu_cnt : u.cnt n = (s.cnt n + j) % 2 ^ s.cntW n := ih (fun c v hcj => hquiet c v (by omega)) (by omega) hu
    have hno_pulse : u.cnt n + 1 ≠ T := by
      rw [hu_cnt, Ne, add_mod_eq_iff_cyclesToPulse hcnt hT1 hTW (by omega)]
      omega
    rw [cnt_succ_of_target hu hc (hquiet j u (by omega) hu) (hT j u) hT1, if_neg hno_pulse, hu_cnt, incCnt,
      Nat.mod_add_mod, Nat.add_assoc]

end Runs

/-- Settles O12: a restart or a wrap leaves 0 in the counter, which then counts modulo T. -/
theorem tickPeriodIsTheTarget : Obligations.TickPeriodIsTheTarget := by
  intro n s ins T j t hinv hstart hT1 hT hj ht hquiet
  obtain ⟨k, rfl⟩ : ∃ k, j = k + 1 := ⟨j - 1, by omega⟩
  have hzero : (s.withPins (ins 0)).nextCnt n = 0 :=
    hstart.elim nextCnt_of_restart fun hhit => nextCnt_of_tick (tick_of_hit hhit)
  have hTW : T < 2 ^ s.cntW n := by
    simpa [hT 1 le_rfl s] using target_lt_two_pow (s := s.withPins (ins 1)) hinv.cfg_wf n
  have htarget := hT (k + 1) hj t
  rw [tick_iff_of_target (by omega), htarget, withPins_cnt, runPins_cnt_periodic hT1 hTW hzero hT hquiet ht,
    mod_succ_eq_iff_dvd hT1]

/-- Settles O13: until the first pulse the counter counts modulo `2^W`, from c. -/
theorem loweredTargetWaitsForTheWrap : Obligations.LoweredTargetWaitsForTheWrap := by
  intro n s ins T j t hinv hT1 hT ht hquiet first
  have hTW : T < 2 ^ s.cntW n := by
    simpa [hT 0 s] using target_lt_two_pow (s := s.withPins (ins 0)) hinv.cfg_wf n
  have hpulse (hj : j ≤ first) : (t.withPins (ins j)).tick n = true ↔ j = first := by
    have htarget := hT j t
    rw [tick_iff_of_target (by omega), htarget, withPins_cnt,
      runPins_cnt_to_first_pulse (hinv.cnt_lt n) hT1 hTW hT hquiet hj ht]
    exact add_mod_eq_iff_cyclesToPulse (hinv.cnt_lt n) hT1 hTW hj
  constructor
  · intro hlt
    rw [← Bool.not_eq_true, hpulse hlt.le]
    exact hlt.ne
  · exact fun heq => (hpulse heq.le).mpr heq

end Sys2Proof.Machine
end

section
/-! The transmitter's cycle, rule by rule (41_tx_engine.md R120 to R130). A cycle leaves what the rule whose condition holds
writes, with the counter of R102 to R105; the statements about a cycle in WAIT, DATA, PARITY and STOP are read off that. -/

namespace Sys2Proof.Machine

open Claims

section Choice
variable {s t : State} {i : Instr}

/-- R120: no other rule of the transmitter meets its condition. -/
theorem txChoice_of_txCondition (h : txCondition s i) : s.txChoice = i := by
  unfold State.txChoice
  cases i with
  | txWaitIdle | txWaitAccept | txDataEnd | txParityEmit | txParityHold | txStopEmit | txStopHold =>
    obtain ⟨hst, hc⟩ := h
    simp [hst, hc]
  | txDataShift | txDataHold =>
    obtain ⟨hst, hb, hk⟩ := h
    simp only [hst, hb, hk, Bool.false_eq_true, if_true, if_false]
  | _ => exact False.elim h

theorem txChoice_eq_iff : s.txChoice = i ↔ txCondition s i :=
  ⟨fun h => h ▸ txCondition_txChoice s, txChoice_of_txCondition⟩

end Choice

/-- Settles O6. -/
theorem txRuleIsChosenByItsCondition : Obligations.TxRuleIsChosenByItsCondition := fun s =>
  ⟨_, fetch_eq s, fun _ => txChoice_eq_iff⟩

/-- Settles O16. -/
theorem txWaitRulesComplete : Obligations.TxWaitRulesComplete := fun _ => ⟨rfl, rfl⟩

/-- Settles O17. -/
theorem txDataRulesComplete : Obligations.TxDataRulesComplete := fun _ => ⟨rfl, rfl, rfl⟩

/-- R130: the two variants of a PARITY rule. -/
theorem txParityOnly_on {s : State} (h : s.cfg.txParity = true) (r : Result) : txParityOnly s r = r := by
  rw [txParityOnly, if_pos h]

theorem txParityOnly_off {s : State} (h : s.cfg.txParity = false) (r : Result) :
    txParityOnly s r = .fault .txParityStateWithoutParity := by
  rw [txParityOnly, h, if_neg Bool.false_ne_true]

/-- Settles O18. -/
theorem txParityAndStopRulesComplete : Obligations.TxParityAndStopRulesComplete := fun _ =>
  ⟨fun hp => ⟨txParityOnly_on hp _, txParityOnly_on hp _⟩, fun hp => ⟨txParityOnly_off hp _, txParityOnly_off hp _⟩, rfl, rfl⟩

section Cycle
variable {s t : State} {i : Instr}

/-- R102 to R105. -/
theorem nextCnt_eq_counterAfter (n : BaudInst) (s : State) : s.nextCnt n = counterAfter n s := by
  unfold State.nextCnt counterAfter
  cases s.restart n <;> rfl

/-- The TX registers after a cycle are those of the rule whose condition holds. -/
theorem cycle_tx_of_condition (h : cycle s = .next t) (hi : txCondition s i) :
    t.tx = { txAfter s.cfg s.pins.txBuff s.tx i with cnt := counterAfter .tx s } := by
  rw [cycle_tx h, txChoice_of_txCondition hi, nextCnt_eq_counterAfter]

/-- A legal state's step answers a state whose TX registers are those of the rule whose condition holds. -/
theorem exists_step_tx (hs : s.script = []) (htx : s.tx.state.legal s.cfg.txParity = true)
    (hrx : s.rx.state.legal s.cfg.rxParity = true) :
    ∃ t, step s = .next t ∧
      ∀ i, txCondition s i → t.tx = { txAfter s.cfg s.pins.txBuff s.tx i with cnt := counterAfter .tx s } := by
  obtain ⟨t, ht⟩ := exists_cycle_of_legal (legal_iff.mpr ⟨htx, hrx⟩)
  exact ⟨t, (step_eq_cycle hs).trans ht, fun i => cycle_tx_of_condition ht⟩

theorem counterAfter_of_restart {n : BaudInst} (h : s.restart n = true) : counterAfter n s = 0 :=
  (nextCnt_eq_counterAfter n s).symm.trans (nextCnt_of_restart h)

theorem counterAfter_of_tick {n : BaudInst} (h : s.tick n = true) : counterAfter n s = 0 :=
  (nextCnt_eq_counterAfter n s).symm.trans (nextCnt_of_tick h)

end Cycle

/-- Settles O19. -/
theorem txWaitCycle : Obligations.TxWaitCycle := by
  intro s hs hrx hst
  obtain ⟨t, ht, htx⟩ := exists_step_tx hs (by rw [hst]; rfl) hrx
  refine ⟨fun hreq => ⟨t, ht, htx .txWaitIdle ⟨hst, hreq⟩⟩, fun hreq => ⟨t, ht, ?_⟩⟩
  rw [htx .txWaitAccept ⟨hst, hreq⟩, counterAfter_of_restart ((restart_tx_iff s).mpr ⟨hst, hreq⟩)]
  rfl

/-- Settles O20. -/
theorem txDataCycle : Obligations.TxDataCycle := by
  intro s hs hrx hst
  obtain ⟨t, ht, htx⟩ := exists_step_tx hs (by rw [hst]; rfl) hrx
  refine ⟨t, ht, fun hb => htx .txDataEnd ⟨hst, hb⟩, fun hb hk => ?_, fun hb hk => htx .txDataHold ⟨hst, hb, hk⟩⟩
  rw [htx .txDataShift ⟨hst, hb, hk⟩, counterAfter_of_tick hk]
  rfl

/-- R130: a cycle in PARITY without TX_PARITY is the transmitter's fault, whatever the receiver's rule answers. -/
theorem cycle_parity_fault {s : State} (hst : s.tx.state = .parity) (hp : s.cfg.txParity = false) :
    cycle s = .fault .txParityStateWithoutParity := by
  have hexec : exec s.txChoice s = .fault .txParityStateWithoutParity := by
    unfold State.txChoice
    rw [hst]
    cases s.tick .tx <;> exact txParityOnly_off hp _
  rw [cycle_eq, hexec, andThen_fault]

/-- Settles O21. -/
theorem txParityCycle : Obligations.TxParityCycle := by
  intro s hs hst
  refine ⟨fun hp hrx => ?_, fun hp => (step_eq_cycle hs).trans (cycle_parity_fault hst hp)⟩
  obtain ⟨t, ht, htx⟩ := exists_step_tx hs (by rw [hst]; exact hp) hrx
  refine ⟨t, ht, fun hk => ?_, fun hk => htx .txParityHold ⟨hst, hk⟩⟩
  rw [htx .txParityEmit ⟨hst, hk⟩, counterAfter_of_tick hk]
  rfl

/-- Settles O22. -/
theorem txStopCycle : Obligations.TxStopCycle := by
  intro s hs hrx hst
  obtain ⟨t, ht, htx⟩ := exists_step_tx hs (by rw [hst]; rfl) hrx
  refine ⟨t, ht, fun hk => ?_, fun hk => htx .txStopHold ⟨hst, hk⟩⟩
  rw [htx .txStopEmit ⟨hst, hk⟩, counterAfter_of_tick hk]
  rfl

section Busy
variable {s t : State}

/-- R130, R163: only a legal state completes a cycle. -/
theorem legal_of_cycle (h : cycle s = .next t) : s.legal = true := by
  obtain ⟨-, b, -, hb, -⟩ := cycle_eq_next.mp h
  have hj := rxCondition_rxChoice s
  refine legal_iff.mpr ⟨?_, ?_⟩
  · cases hst : s.tx.state with
    | parity =>
      cases hp : s.cfg.txParity with
      | true => rfl
      | false => simp [cycle_parity_fault hst hp] at h
    | _ => rfl
  · cases hst : s.rx.state with
    | parity =>
      generalize s.rxChoice = j at hj hb
      cases j with
      | rxOvsHold | rxOvsCount | rxOvsSample =>
        simpa [State.rxParityIllegal, hst, RxState.legal] using (rxLegal_eq_next.mp hb).1
      | rxParityCheck => exact (execRxParityCheck_eq_next.mp hb).1
      | _ => simp [rxCondition, hst] at hj
    | reserved001 | reserved010 | reserved011 =>
      simp [State.rxChoice, hst, exec, execRxIllegal001, execRxIllegal01X] at hb
    | _ => rfl

/-- R133: outside WAIT the transmitter's rule reads neither the request nor the byte, and its BaudTick is not restarted. -/
theorem cycle_tx_of_busy {p q : Pins} {t' : State} (hbusy : s.tx.state ≠ .wait) (hdiv : p.divisor = q.divisor)
    (h : cycle (s.withPins p) = .next t) (h' : cycle (s.withPins q) = .next t') : t.tx = t'.tx := by
  have hk : (s.withPins p).tick .tx = (s.withPins q).tick .tx := tick_congr (congrArg BitVec.toNat hdiv) rfl rfl
  have hr (r : Pins) : (s.withPins r).restart .tx = false := by
    rw [← Bool.not_eq_true, restart_tx_iff]
    exact fun hacc => hbusy hacc.1
  have hn : (s.withPins p).nextCnt .tx = (s.withPins q).nextCnt .tx :=
    nextCnt_congr ((hr p).trans (hr q).symm) hk rfl rfl
  have hi : (s.withPins p).txChoice = (s.withPins q).txChoice := by
    unfold State.txChoice
    rw [hk]
    cases hst : s.tx.state with
    | wait => exact absurd hst hbusy
    | _ => simp [hst]
  have hacc : (s.withPins q).txChoice ≠ .txWaitAccept := fun hi => hbusy (txChoice_eq_iff.mp hi).1
  rw [cycle_tx h, cycle_tx h', hi, hn]
  generalize (s.withPins q).txChoice = i at hacc
  cases i with
  | txWaitAccept => exact absurd rfl hacc
  | _ => rfl

end Busy

/-- Settles O42: the receiver reads neither, and a state that completes a cycle is legal on any pins. -/
theorem busyRequestHasNoEffect : Obligations.BusyRequestHasNoEffect := by
  intro s t p req b hbusy ht
  let q : Pins := { p with txReq := req, txBuff := b }
  rw [step_withPins] at ht
  have hlegal : s.legal = true := legal_of_cycle (s := s.withPins p) ht
  obtain ⟨t', ht'⟩ := exists_cycle_of_legal (s := s.withPins q) hlegal
  have hrx : t'.rx = t.rx := cycle_rx_congr (s := s.withPins q) (s' := s.withPins p) rfl rfl rfl rfl rfl ht' ht
  exact ⟨t', (step_withPins s q).trans ht', cycle_tx_of_busy (p := q) (q := p) hbusy rfl ht' ht, hrx⟩

end Sys2Proof.Machine
end

section
/-! The invariant (41_tx_engine.md R131, 42_rx_engine.md R164) holds at reset, and each engine's rule keeps its part of it. -/

namespace Sys2Proof.Machine

open Claims

section Invariant
variable {s t : State}

/-- R131 speaks of the TX registers and the parameters only. -/
theorem TxInv.congr (h : TxInv s) (htx : t.tx = s.tx) (hcfg : t.cfg = s.cfg) : TxInv t := by
  cases s; cases t; cases htx; cases hcfg
  exact { h with }

/-- R164 speaks of the RX registers and the parameters only. -/
theorem RxInv.congr (h : RxInv s) (hrx : t.rx = s.rx) (hcfg : t.cfg = s.cfg) : RxInv t := by
  cases s; cases t; cases hrx; cases hcfg
  exact { h with }

theorem Inv.congr (h : Inv s) (htx : t.tx = s.tx) (hrx : t.rx = s.rx) (hcfg : t.cfg = s.cfg) : Inv t :=
  ⟨by rw [hcfg, h.cfg_wf], h.tx.congr htx hcfg, h.rx.congr hrx hcfg⟩

theorem Inv.withPins (h : Inv s) (p : Pins) : Inv (s.withPins p) := h.congr rfl rfl rfl

/-- R131: the transmitter's rules keep its invariant, with any count of the counter's width. -/
theorem txAfter_inv {i : Instr} {n : Nat} (b : Byte) (h : TxInv s) (hi : txCondition s i) (hn : n < 2 ^ s.cfg.txCntW) :
    TxInv (s.withTx { txAfter s.cfg b s.tx i with cnt := n }) := by
  cases i with
  | txWaitIdle => exact { h with busy := fun hb => absurd hi.1 hb, cnt_lt := hn }
  | txWaitAccept =>
    exact { h with wait_zero := nofun, full := nofun, busy := fun _ => rfl, parity_on := nofun, cnt_lt := hn }
  | txDataEnd =>
    have hfull := (bit3_of_le h.bitcnt_le).mp hi.2
    have hbusy := h.busy (by simp [hi.1])
    exact {
      wait_zero := by cases hp : s.cfg.txParity <;> simp [txAfter, hp]
      bitcnt_le := h.bitcnt_le
      full := fun _ => hfull
      busy := fun _ => hbusy
      parity_on := by cases hp : s.cfg.txParity <;> simp [txAfter, hp]
      cnt_lt := hn }
  | txDataShift =>
    obtain ⟨hst, hb, -⟩ := hi
    exact { h with
      wait_zero := by simp [txAfter, hst]
      bitcnt_le := succ_le_of_bit3 h.bitcnt_le hb
      full := by simp [txAfter, hst]
      cnt_lt := hn }
  | txParityEmit =>
    exact {
      wait_zero := nofun
      bitcnt_le := h.bitcnt_le
      full := fun _ => h.full (.inl hi.1)
      busy := fun _ => h.busy (by simp [hi.1])
      parity_on := nofun
      cnt_lt := hn }
  | txStopEmit =>
    exact {
      wait_zero := fun _ => rfl
      bitcnt_le := Nat.zero_le 8
      full := nofun
      busy := fun hb => absurd rfl hb
      parity_on := nofun
      cnt_lt := hn }
  | txDataHold | txParityHold | txStopHold => exact { h with cnt_lt := hn }
  | _ => exact False.elim hi

/-- In the oversampling states RX.WAIT's clauses do not speak, and DATA is not full. -/
theorem rxInv_of_oversampling {r : RxRegs} (h : RxInv s) (ho : oversampling s) (hst : r.state = s.rx.state)
    (hbit : r.bitcnt = s.rx.bitcnt) (hrdy : r.rdyQ = s.rx.rdyQ) (hn : r.cnt < 2 ^ s.cfg.rxCntW) : RxInv (s.withRx r) where
  legal := by rw [withRx_rx, hst]; exact h.legal
  wait_zero := by
    rw [withRx_rx, hst]
    rcases ho with ho | ⟨ho, -⟩ | ho | ho <;> simp [ho]
  start_zero := by rw [withRx_rx, hst, hbit]; exact h.start_zero
  bitcnt_le := by rw [withRx_rx, hbit]; exact h.bitcnt_le
  full := by rw [withRx_rx, hst, hbit]; exact h.full
  data_full := by
    rw [withRx_rx, hst, hbit]
    rcases ho with ho | ⟨-, hb⟩ | ho | ho
    · simp [ho]
    · intro _ h8
      rw [h8] at hb
      cases hb
    · simp [ho]
    · simp [ho]
  rdy := by rw [withRx_rx, hst, hrdy]; exact h.rdy
  cnt_lt := hn

/-- Outside WAIT `rx_rdy_q` is 0. -/
theorem RxInv.rdyQ_of_busy (h : RxInv s) (hb : s.rx.state ≠ .wait) : s.rx.rdyQ ≠ true := mt h.rdy hb

/-- R164: the receiver's rules keep its invariant, with any count of the counter's width. -/
theorem rxAfter_inv {j : Instr} {n : Nat} (level : Bool) (h : RxInv s) (hj : rxCondition s j) (hn : n < 2 ^ s.cfg.rxCntW) :
    RxInv (s.withRx { rxAfter s.cfg level s.rx j with cnt := n }) := by
  have hlegal := rxAfter_legal level hj h.legal
  cases j with
  | rxWaitIdle => exact { h with rdy := nofun, cnt_lt := hn }
  | rxWaitDetect =>
    obtain ⟨-, hbit⟩ := h.wait_zero hj.1
    exact { h with
      legal := hlegal, wait_zero := nofun, start_zero := fun _ => hbit, full := nofun, data_full := nofun, rdy := nofun
      cnt_lt := hn }
  | rxDataDone =>
    have hfull := (bit3_of_le h.bitcnt_le).mp hj.2
    have hrdy := h.rdyQ_of_busy (by simp [hj.1])
    exact {
      legal := hlegal
      wait_zero := by cases hp : s.cfg.rxParity <;> simp [rxAfter, hp]
      start_zero := by cases hp : s.cfg.rxParity <;> simp [rxAfter, hp]
      bitcnt_le := h.bitcnt_le
      full := fun _ => hfull
      data_full := by cases hp : s.cfg.rxParity <;> simp [rxAfter, hp]
      rdy := fun hr => absurd hr hrdy
      cnt_lt := hn }
  | rxOvsHold | rxOvsCount | rxOvsSample => exact rxInv_of_oversampling h hj.1 rfl rfl rfl hn
  | rxStartConfirm =>
    exact { h with
      legal := hlegal, wait_zero := nofun, start_zero := nofun, full := nofun, data_full := fun _ _ => rfl
      rdy := fun hr => absurd hr (h.rdyQ_of_busy (by simp [hj.1])), cnt_lt := hn }
  | rxStartReject =>
    have hbit := h.start_zero hj.1
    exact { h with
      legal := hlegal, wait_zero := fun _ => ⟨rfl, hbit⟩, start_zero := nofun, full := nofun, data_full := nofun
      rdy := fun _ => rfl, cnt_lt := hn }
  | rxDataBit =>
    obtain ⟨hst, hb, -⟩ := hj
    exact { h with
      wait_zero := by simp [rxAfter, hst]
      start_zero := by simp [rxAfter, hst]
      bitcnt_le := succ_le_of_bit3 h.bitcnt_le hb
      full := by simp [rxAfter, hst]
      data_full := fun _ _ => rfl
      cnt_lt := hn }
  | rxParityCheck =>
    have hfull := h.full (.inl hj.1)
    exact { h with
      legal := hlegal, wait_zero := nofun, start_zero := nofun, full := fun _ => hfull, data_full := nofun
      rdy := fun hr => absurd hr (h.rdyQ_of_busy (by simp [hj.1])), cnt_lt := hn }
  | rxStopEnd =>
    exact {
      legal := hlegal
      wait_zero := fun _ => ⟨rfl, rfl⟩
      start_zero := nofun
      bitcnt_le := Nat.zero_le 8
      full := nofun
      data_full := nofun
      rdy := fun _ => rfl
      cnt_lt := hn }
  | rxIllegal001 | rxIllegal01X => exact { h with cnt_lt := hn }
  | _ => exact False.elim hj

/-- R100: the next count has the counter's width. -/
theorem nextCnt_lt (n : BaudInst) (s : State) : s.nextCnt n < 2 ^ s.cntW n := by
  unfold State.nextCnt
  split
  · exact Nat.two_pow_pos _
  · exact incCnt_lt _ _

/-- Cycles keep the invariant. -/
theorem cycle_inv (h : Inv s) (hc : cycle s = .next t) : Inv t := by
  obtain ⟨hcfg, -, -, -⟩ := cycle_keeps hc
  have htx := txAfter_inv s.pins.txBuff h.tx (txCondition_txChoice s) (nextCnt_lt .tx s)
  have hrx := rxAfter_inv s.rxIn h.rx (rxCondition_rxChoice s) (nextCnt_lt .rx s)
  exact ⟨by rw [hcfg, h.cfg_wf], htx.congr (cycle_tx hc) hcfg, hrx.congr (cycle_rx hc) hcfg⟩

end Invariant

/-- Settles O36: the host's commands move no register and no parameter, and the cycle keeps the invariant. -/
theorem stepKeepsTheInvariant : Obligations.StepKeepsTheInvariant := by
  intro s t h hstep
  obtain ⟨u, hd, hc⟩ := step_eq_next hstep
  obtain ⟨htx, hrx, hcfg, -⟩ := drive_keeps hd
  exact cycle_inv (h.congr htx hrx hcfg) hc

/-- Settles O35. -/
theorem resetMeetsTheInvariant : Obligations.ResetMeetsTheInvariant := fun c _ hwf =>
  { cfg_wf := hwf
    tx :=
      { wait_zero := fun _ => rfl
        bitcnt_le := Nat.zero_le 8
        full := nofun
        busy := fun hb => absurd rfl hb
        parity_on := nofun
        cnt_lt := Nat.mod_lt _ (Nat.two_pow_pos c.txCntW) }
    rx :=
      { legal := rfl
        wait_zero := fun _ => ⟨rfl, rfl⟩
        start_zero := nofun
        bitcnt_le := Nat.zero_le 8
        full := nofun
        data_full := nofun
        rdy := nofun
        cnt_lt := Nat.mod_lt _ (Nat.two_pow_pos c.rxCntW) } }

section Reachable
variable {s t : State} {ins : Nat → Pins}

/-- A predicate that a cycle keeps on any pins holds in every cycle of a run that begins with it. -/
theorem runPins_induction {P : State → Prop} (hcycle : ∀ s p t, P s → cycle (s.withPins p) = .next t → P t) (h : P s) :
    ∀ {n : Nat} {t : State}, runPins ins s n = .next t → P t := by
  intro n
  induction n with
  | zero => intro t ht; cases ht; exact h
  | succ n ih =>
    intro t ht
    obtain ⟨u, hu, hc⟩ := andThen_eq_next.mp ht
    exact hcycle u (ins n) t (ih hu) hc

theorem runPins_inv {n : Nat} (h : Inv s) (hrun : runPins ins s n = .next t) : Inv t :=
  runPins_induction (fun _ p _ hs hc => cycle_inv (hs.withPins p) hc) h hrun

/-- R123: DATA with eight bits sent lasts one cycle. -/
theorem cycle_state_ne_data (hst : s.tx.state = .data) (hb : s.tx.bitcnt = 8#4) (h : cycle s = .next t) :
    t.tx.state ≠ .data := by
  rw [cycle_tx_of_condition (i := .txDataEnd) h ⟨hst, by rw [hb]; rfl⟩]
  cases hp : s.cfg.txParity <;> simp [txAfter, hp]

/-- R124: DATA with eight bits sent follows the cycle in DATA that sends the eighth. -/
theorem data_seven_of_cycle (hinv : Inv s) (h : cycle s = .next t) (hst : t.tx.state = .data) (hb : t.tx.bitcnt = 8#4) :
    s.tx.state = .data ∧ s.tx.bitcnt = 7#4 := by
  have hi := txCondition_txChoice s
  rw [cycle_tx h] at hst hb
  generalize s.txChoice = i at hi hst hb
  cases i with
  | txWaitIdle => cases hi.1.symm.trans hst
  | txWaitAccept => cases (hinv.tx.wait_zero hi.1).symm.trans hb
  | txDataEnd => cases hp : s.cfg.txParity <;> simp [txAfter, hp] at hst
  | txDataShift =>
    have hb : s.tx.bitcnt + 1 = 8#4 := hb
    exact ⟨hi.1, by bv_omega⟩
  | txDataHold =>
    have hb : s.tx.bitcnt = 8#4 := hb
    have hlt := hi.2.1
    rw [hb] at hlt
    cases hlt
  | txParityHold | txStopHold => cases hi.1.symm.trans hst
  | txParityEmit | txStopEmit => cases hst
  | _ => exact False.elim hi

end Reachable

/-- Settles O38. -/
theorem reachableTransmitterStates : Obligations.ReachableTransmitterStates := by
  intro c d ins n t hwf ht
  have hreset : Inv (State.resetWith c d) := resetMeetsTheInvariant c d hwf
  obtain ⟨hwait, hle, hfull, hbusy, -, -⟩ := (runPins_inv hreset ht).tx
  refine ⟨hwait, hle, hfull, hbusy, fun hst hb => ⟨fun u hu => ?_, ?_⟩⟩
  · rw [runPins_succ, ht, andThen_next] at hu
    exact cycle_state_ne_data (s := t.withPins (ins n)) hst hb hu
  · cases n with
    | zero => cases ht; cases hst
    | succ m =>
      obtain ⟨u, hu, hc⟩ := andThen_eq_next.mp ht
      have hinv : Inv (u.withPins (ins m)) := (runPins_inv hreset hu).withPins (ins m)
      obtain ⟨hst, hb⟩ := data_seven_of_cycle hinv hc hst hb
      exact ⟨m, u, rfl, hu, hst, hb⟩

end Sys2Proof.Machine
end

section
/-! The transmitter's frame, cycle by cycle (41_tx_engine.md R132, R134). A frame is a sequence of stages that advance with the
tick; `frameRegs` gives the TX registers of each stage, and a cycle on them is the advance (`cycle_frameRegs`). Which cycle
stands in which stage is then arithmetic, at divisors of 2 or more and at divisor 1. -/

namespace Sys2Proof.Machine

open Claims

/-- Where the transmitter stands in a frame: DATA with k bits sent, PARITY, STOP, the first cycle back in WAIT, and later. -/
inductive FrameStage where
  | data (k : Nat)
  | parity
  | stop
  | released
  | idle

namespace FrameStage

/-- The stage of the next cycle, for an engine with or without parity (R121, R123 to R129). -/
def next (parity tick : Bool) : FrameStage → FrameStage
  | data k => if k = 8 then if parity then .parity else .stop else if tick then data (k + 1) else data k
  | .parity => if tick then stop else .parity
  | stop => if tick then released else stop
  | released => idle
  | idle => idle

/-- At most eight bits are sent. -/
def wf : FrameStage → Prop
  | data k => k ≤ 8
  | _ => True

/-- Back in WAIT. -/
def waiting : FrameStage → Bool
  | released | idle => true
  | _ => false

theorem next_wf {g : FrameStage} (parity tick : Bool) (h : g.wf) : (g.next parity tick).wf := by
  cases g with
  | data k =>
    have hk : k ≤ 8 := h
    by_cases h8 : k = 8
    · cases parity <;> simp [next, h8, wf]
    · cases tick
      · simpa [next, h8, wf] using hk
      · simpa [next, h8, wf] using Nat.succ_le_of_lt (Nat.lt_of_le_of_ne hk h8)
  | parity | stop => cases tick <;> trivial
  | released | idle => trivial

end FrameStage

/-- The TX registers in a stage of the frame of byte b: `par` is the parity latch, `n` the counter. -/
def frameRegs (parity : Bool) (b : Byte) (par : Bool) (n : Nat) : FrameStage → TxRegs
  | .data k =>
    { state := .data, cnt := n, shift := b >>> k, par := par, bitcnt := BitVec.ofNat 4 k
      q := if k = 0 then false else b.getLsbD (k - 1), rdyQ := false }
  | .parity =>
    { state := .parity, cnt := n, shift := b >>> 8, par := par, bitcnt := 8, q := b.getLsbD 7, rdyQ := false }
  | .stop =>
    { state := .stop, cnt := n, shift := b >>> 8, par := par, bitcnt := 8
      q := if parity then par else b.getLsbD 7, rdyQ := false }
  | .released => { state := .wait, cnt := n, shift := b >>> 8, par := par, bitcnt := 0, q := true, rdyQ := false }
  | .idle => { state := .wait, cnt := n, shift := b >>> 8, par := par, bitcnt := 0, q := true, rdyQ := true }

section Cycle
variable {s t : State} {b : Byte} {par : Bool} {n : Nat} {g : FrameStage}

theorem frameRegs_cnt (parity : Bool) (b : Byte) (par : Bool) (n : Nat) (g : FrameStage) :
    (frameRegs parity b par n g).cnt = n := by
  cases g <;> rfl

/-- A stage is in WAIT exactly when it is waiting. -/
theorem frameRegs_state_eq_wait {parity : Bool} : (frameRegs parity b par n g).state = .wait ↔ g.waiting = true := by
  cases g <;> simp [frameRegs, FrameStage.waiting]

/-- Bit 3 of the bit counter is set when eight bits are sent. -/
theorem bit3_ofNat {k : Nat} (h : k ≤ 8) : (BitVec.ofNat 4 k).getLsbD 3 = decide (k = 8) := by
  interval_cases k <;> rfl

/-- R124: the bit of the byte that is shifted out, and the byte that stays. -/
theorem frameRegs_shift (parity : Bool) (b : Byte) (par : Bool) (n k m : Nat) :
    { frameRegs parity b par n (.data k) with
      q := (b >>> k).getLsbD 0, shift := shiftOut (b >>> k), bitcnt := BitVec.ofNat 4 k + 1, cnt := m } =
      frameRegs parity b par m (.data (k + 1)) := by
  simp [frameRegs, shiftOut, BitVec.shiftRight_add, BitVec.ofNat_add]

/-- A cycle without an acceptance takes the registers of a stage to those of the next. -/
theorem cycle_frameRegs (hc : cycle s = .next t) (hg : g.wf) (htx : s.tx = frameRegs s.cfg.txParity b par n g)
    (hreq : g.waiting = true → s.pins.txReq = false) :
    t.tx = frameRegs s.cfg.txParity b par (s.nextCnt .tx) (g.next s.cfg.txParity (s.tick .tx)) := by
  rw [nextCnt_eq_counterAfter]
  cases g with
  | data k =>
    have hst : s.tx.state = .data := by rw [htx]; rfl
    have hb : s.tx.bitcnt.getLsbD 3 = decide (k = 8) := by rw [htx]; exact bit3_ofNat hg
    by_cases h8 : k = 8
    · subst h8
      rw [cycle_tx_of_condition (i := .txDataEnd) hc ⟨hst, hb⟩, htx]
      cases hp : s.cfg.txParity <;> simp [txAfter, frameRegs, FrameStage.next, hp]
    · rw [decide_eq_false h8] at hb
      cases hk : s.tick .tx with
      | true =>
        rw [cycle_tx_of_condition (i := .txDataShift) hc ⟨hst, hb, hk⟩, htx]
        simp only [FrameStage.next, h8, if_false, if_true]
        exact frameRegs_shift _ b par n k _
      | false =>
        rw [cycle_tx_of_condition (i := .txDataHold) hc ⟨hst, hb, hk⟩, htx]
        simp only [FrameStage.next, h8, if_false, Bool.false_eq_true]
        rfl
  | parity =>
    have hst : s.tx.state = .parity := by rw [htx]; rfl
    cases hk : s.tick .tx with
    | true =>
      have hi : txCondition s .txParityEmit := ⟨hst, hk⟩
      have hp := txParity_of_cycle_parityEmit hc (txChoice_of_txCondition hi)
      rw [cycle_tx_of_condition hc hi, htx, hp]
      rfl
    | false =>
      rw [cycle_tx_of_condition (i := .txParityHold) hc ⟨hst, hk⟩, htx]
      rfl
  | stop =>
    have hst : s.tx.state = .stop := by rw [htx]; rfl
    cases hk : s.tick .tx with
    | true =>
      rw [cycle_tx_of_condition (i := .txStopEmit) hc ⟨hst, hk⟩, htx]
      rfl
    | false =>
      rw [cycle_tx_of_condition (i := .txStopHold) hc ⟨hst, hk⟩, htx]
      rfl
  | released | idle =>
    have hst : s.tx.state = .wait := by rw [htx]; rfl
    rw [cycle_tx_of_condition (i := .txWaitIdle) hc ⟨hst, hreq rfl⟩, htx]
    rfl

/-- R122: an acceptance in WAIT with no bit counted leaves the registers of the first stage. -/
theorem cycle_accept (hc : cycle s = .next t) (hst : s.tx.state = .wait) (hbit : s.tx.bitcnt = 0#4)
    (hreq : s.pins.txReq = true) :
    t.tx = frameRegs s.cfg.txParity s.pins.txBuff (if s.cfg.txParity then xor8 s.pins.txBuff else s.tx.par) 0 (.data 0) := by
  rw [cycle_tx_of_condition (i := .txWaitAccept) hc ⟨hst, hreq⟩,
    counterAfter_of_restart ((restart_tx_iff s).mpr ⟨hst, hreq⟩)]
  simp [txAfter, frameRegs, hbit]

end Cycle

/-- The stage of cycle k + 1 after an acceptance in cycle 0, with a tick in every D-th cycle. -/
def frameStage (parity : Bool) (D : Nat) : Nat → FrameStage
  | 0 => .data 0
  | k + 1 => (frameStage parity D k).next parity (decide (D ∣ k + 1))

theorem frameStage_wf (parity : Bool) (D k : Nat) : (frameStage parity D k).wf := by
  induction k with
  | zero => exact Nat.zero_le 8
  | succ k ih => exact FrameStage.next_wf _ _ ih

section Runs
variable {s t : State} {ins : Nat → Pins} {D : Nat}

/-- Every run from a state that meets the invariant answers a state. -/
theorem exists_runPins (h : Inv s) (ins : Nat → Pins) (n : Nat) : ∃ t, runPins ins s n = .next t := by
  induction n with
  | zero => exact ⟨s, rfl⟩
  | succ n ih =>
    obtain ⟨u, hu⟩ := ih
    obtain ⟨t, ht⟩ := exists_cycle_of_legal ((runPins_inv h hu).withPins (ins n)).legal
    exact ⟨t, by rw [runPins_succ, hu, andThen_next, ht]⟩

/-- What TxFrameTimeline and TxFrameAtDivisorOne share: a request accepted in cycle 0, a constant divisor of 1 or more, and no
request in a cycle of the frame's schedule that is back in WAIT. -/
structure FrameRun (s : State) (ins : Nat → Pins) (D : Nat) : Prop where
  inv : Inv s
  wait : s.tx.state = .wait
  req : (ins 0).txReq = true
  pos : 1 ≤ D
  divisor : ∀ k, (ins k).divisor.toNat = D
  quiet : ∀ k, (frameStage s.cfg.txParity D k).waiting = true → (ins (k + 1)).txReq = false

/-- The parity latch of a frame run (R122; without parity the register keeps what it held). -/
def framePar (s : State) (ins : Nat → Pins) : Bool :=
  if s.cfg.txParity then xor8 (ins 0).txBuff else s.tx.par

/-- With the counter at k modulo D, the tick comes in every D-th cycle (R107). -/
theorem FrameRun.tick (h : FrameRun s ins D) {u : State} {k : Nat} (c : Nat) (hcnt : u.tx.cnt = k % D) :
    (u.withPins (ins c)).tick .tx = decide (D ∣ k + 1) := by
  have hT : (u.withPins (ins c)).target .tx = D := h.divisor c
  have hpos := h.pos
  rw [Bool.eq_iff_iff, tick_iff_of_target (by omega), hT, decide_eq_true_iff, ← mod_succ_eq_iff_dvd hpos, ← hcnt]
  rfl

/-- Without an acceptance, the counter goes on counting modulo D. -/
theorem FrameRun.nextCnt (h : FrameRun s ins D) {u : State} {k : Nat} (c : Nat) (hcnt : u.tx.cnt = k % D)
    (hwf : u.cfg.wf = true) (hr : (u.withPins (ins c)).restart .tx = false) :
    (u.withPins (ins c)).nextCnt .tx = (k + 1) % D := by
  have hT : (u.withPins (ins c)).target .tx = D := h.divisor c
  have hpos := h.pos
  have hcnt : (u.withPins (ins c)).cnt .tx = k % D := hcnt
  have hlt : k % D < D := Nat.mod_lt k hpos
  have hDW := target_lt_two_pow (s := u.withPins (ins c)) hwf .tx
  rw [nextCnt_of_target hr (by omega), hT, hcnt, incCnt_of_lt (by omega), mod_succ_eq_ite hpos]

/-- In cycle k + 1 the TX registers are those of its stage, and the counter has counted k cycles modulo D. -/
theorem FrameRun.tx (h : FrameRun s ins D) {k : Nat} (hrun : runPins ins s (k + 1) = .next t) :
    t.tx = frameRegs s.cfg.txParity (ins 0).txBuff (framePar s ins) (k % D) (frameStage s.cfg.txParity D k) := by
  induction k generalizing t with
  | zero =>
    obtain ⟨u, hu, hc⟩ := andThen_eq_next.mp hrun
    cases hu
    rw [Nat.zero_mod]
    exact cycle_accept hc h.wait (h.inv.tx.wait_zero h.wait) h.req
  | succ k ih =>
    obtain ⟨u, hu, hc⟩ := andThen_eq_next.mp hrun
    have htx := ih hu
    have hcfg : u.cfg = s.cfg := runPins_cfg hu
    have hcnt : u.tx.cnt = k % D := by rw [htx, frameRegs_cnt]
    have hr : (u.withPins (ins (k + 1))).restart .tx = false := by
      rw [← Bool.not_eq_true, restart_tx_iff, withPins_tx, htx, frameRegs_state_eq_wait]
      rintro ⟨hwait, hreq⟩
      exact Bool.false_ne_true ((h.quiet k hwait).symm.trans hreq)
    have hnext := cycle_frameRegs hc (frameStage_wf _ D k) (by rw [withPins_cfg, hcfg]; exact htx) (h.quiet k)
    rwa [withPins_cfg, hcfg, h.tick (k + 1) hcnt, h.nextCnt (k + 1) hcnt (by rw [hcfg, h.inv.cfg_wf]) hr] at hnext

end Runs

section Stages
variable {parity : Bool} {D k m : Nat}

/-- While DATA lasts, a bit is sent in every D cycles. -/
theorem frameStage_data (hk : k ≤ 8 * D) : frameStage parity D k = .data (k / D) := by
  induction k with
  | zero => simp [frameStage]
  | succ k ih =>
    have hne : k / D ≠ 8 := (Nat.div_lt_of_lt_mul (by omega)).ne
    rw [frameStage, ih (by omega), FrameStage.next, if_neg hne, Nat.succ_div]
    by_cases hdvd : D ∣ k + 1 <;> simp [hdvd]

/-- A stage that waits for the tick lasts until there is one. -/
theorem frameStage_hold {g : FrameStage} (hg : g.next parity false = g) (hm : frameStage parity D m = g) (hmk : m ≤ k)
    (hquiet : ∀ j, m < j → j ≤ k → ¬ D ∣ j) : frameStage parity D k = g := by
  induction k, hmk using Nat.le_induction with
  | base => exact hm
  | succ k hmk ih =>
    rw [frameStage, ih fun j hj hjk => hquiet j hj (by omega), decide_eq_false (hquiet (k + 1) (by omega) le_rfl), hg]

/-- Back in WAIT the frame is over. -/
theorem frameStage_idle (hm : frameStage parity D m = .released) (hk : m < k) : frameStage parity D k = .idle := by
  induction k, hk using Nat.le_induction with
  | base => rw [frameStage, hm]; rfl
  | succ k _ ih => rw [frameStage, ih]; rfl

/-- Between two neighbouring multiples of D there is none. -/
theorem not_dvd_of_slot {q j : Nat} (h1 : q * D < j) (h2 : j < (q + 1) * D) : ¬ D ∣ j := by
  rintro ⟨i, rfl⟩
  rw [Nat.mul_comm D i] at h1 h2
  have := Nat.lt_of_mul_lt_mul_right h1
  have := Nat.lt_of_mul_lt_mul_right h2
  omega

/-- The cycle after DATA, when eight bits are sent. -/
theorem frameStage_data_end (hD : 1 ≤ D) : frameStage parity D (8 * D + 1) = if parity then .parity else .stop := by
  rw [frameStage, frameStage_data le_rfl, Nat.mul_div_cancel _ hD]
  rfl

/-- A stage that waits for the tick, once begun in slot q, lasts to the slot's end, where the tick ends it. -/
theorem frameStage_slot {g : FrameStage} {q : Nat} (hm : frameStage parity D m = g) (hg : g.next parity false = g)
    (h1 : q * D ≤ m) (h2 : m < (q + 1) * D) :
    (∀ k, m ≤ k → k < (q + 1) * D → frameStage parity D k = g) ∧
      frameStage parity D ((q + 1) * D) = g.next parity true := by
  have hspan (k : Nat) (hmk : m ≤ k) (hk : k < (q + 1) * D) : frameStage parity D k = g :=
    frameStage_hold hg hm hmk fun j hj hjk => not_dvd_of_slot (q := q) (by omega) (by omega)
  refine ⟨hspan, ?_⟩
  obtain ⟨k, hk⟩ : ∃ k, (q + 1) * D = k + 1 := ⟨(q + 1) * D - 1, by omega⟩
  rw [hk, frameStage, hspan k (by omega) (by omega), decide_eq_true (hk ▸ Nat.dvd_mul_left D (q + 1))]

/-- R132 with parity: PARITY to the end of slot 8, STOP in slot 9. -/
theorem frameStage_with_parity (hD : 2 ≤ D) :
    (∀ k, 8 * D < k → k < 9 * D → frameStage true D k = .parity) ∧
      (∀ k, 9 * D ≤ k → k < 10 * D → frameStage true D k = .stop) ∧ frameStage true D (10 * D) = .released := by
  obtain ⟨hparity, hstop⟩ :=
    frameStage_slot (q := 8) (frameStage_data_end (parity := true) (D := D) (by omega)) rfl (by omega) (by omega)
  obtain ⟨hstop, hreleased⟩ := frameStage_slot (q := 9) hstop rfl (by omega) (by omega)
  exact ⟨hparity, hstop, hreleased⟩

/-- R132 without parity: STOP to the end of slot 8. -/
theorem frameStage_without_parity (hD : 2 ≤ D) :
    (∀ k, 8 * D < k → k < 9 * D → frameStage false D k = .stop) ∧ frameStage false D (9 * D) = .released :=
  frameStage_slot (q := 8) (frameStage_data_end (parity := false) (D := D) (by omega)) rfl (by omega) (by omega)

/-- R132: every cycle after the acceptance, by its stage. -/
theorem frameStage_cases (parity : Bool) (hD : 2 ≤ D) (k : Nat) :
    (k ≤ 8 * D ∧ frameStage parity D k = .data (k / D)) ∨
      (parity = true ∧ 8 * D < k ∧ k < 9 * D ∧ frameStage parity D k = .parity) ∨
      ((if parity then 9 * D ≤ k else 8 * D < k) ∧ k < txBusy parity D ∧ frameStage parity D k = .stop) ∨
      (k = txBusy parity D ∧ frameStage parity D k = .released) ∨
      (txBusy parity D < k ∧ frameStage parity D k = .idle) := by
  rcases Nat.lt_or_ge (8 * D) k with hk | hk
  case inr => exact .inl ⟨hk, frameStage_data hk⟩
  cases parity with
  | true =>
    obtain ⟨hparity, hstop, hreleased⟩ := frameStage_with_parity hD
    rcases Nat.lt_or_ge k (9 * D) with h9 | h9
    · exact .inr (.inl ⟨rfl, hk, h9, hparity k hk h9⟩)
    rcases Nat.lt_trichotomy k (10 * D) with h10 | rfl | h10
    · exact .inr (.inr (.inl ⟨h9, h10, hstop k h9 h10⟩))
    · exact .inr (.inr (.inr (.inl ⟨rfl, hreleased⟩)))
    · exact .inr (.inr (.inr (.inr ⟨h10, frameStage_idle hreleased h10⟩)))
  | false =>
    obtain ⟨hstop, hreleased⟩ := frameStage_without_parity hD
    rcases Nat.lt_trichotomy k (9 * D) with h9 | rfl | h9
    · exact .inr (.inr (.inl ⟨hk, h9, hstop k hk h9⟩))
    · exact .inr (.inr (.inr (.inl ⟨rfl, hreleased⟩)))
    · exact .inr (.inr (.inr (.inr ⟨h9, frameStage_idle hreleased h9⟩)))

/-- R132: no cycle of the frame is back in WAIT. -/
theorem txBusy_le_of_waiting (hD : 2 ≤ D) (h : (frameStage parity D k).waiting = true) : txBusy parity D ≤ k := by
  rcases frameStage_cases parity hD k with ⟨-, hg⟩ | ⟨-, -, -, hg⟩ | ⟨-, -, hg⟩ | ⟨hk, -⟩ | ⟨hk, -⟩
  · rw [hg] at h; cases h
  · rw [hg] at h; cases h
  · rw [hg] at h; cases h
  · exact hk.ge
  · exact hk.le

end Stages

section Outputs
variable {parity : Bool} {b : Byte} {par : Bool} {n D k : Nat}

theorem nine_mul_le_txBusy (parity : Bool) (D : Nat) : 9 * D ≤ txBusy parity D := by
  cases parity
  · exact le_rfl
  · exact Nat.mul_le_mul_right D (by decide)

/-- Once the frame is over, R132's table is past its last rows. -/
theorem past_frame (hk : txBusy parity D ≤ k) : ¬ k + 1 ≤ 9 * D ∧ ¬ (parity = true ∧ k + 1 ≤ 10 * D) := by
  have h9 := nine_mul_le_txBusy parity D
  refine ⟨by omega, ?_⟩
  rintro ⟨rfl, hle⟩
  exact absurd hk (Nat.not_le.mpr hle)

theorem lineBit_past_frame (hk : txBusy parity D ≤ k) : lineBit parity b D (k + 1) = true := by
  obtain ⟨h9, h10⟩ := past_frame hk
  rw [lineBit, if_neg (by omega), if_neg h9, if_neg h10]

theorem txStateAt_past_frame (hD : 2 ≤ D) (hk : txBusy parity D ≤ k) : txStateAt parity D (k + 1) = .wait := by
  obtain ⟨h9, h10⟩ := past_frame hk
  rw [txStateAt, if_neg (by omega), if_neg h9, if_neg h10]

/-- R132: the line, the state and `tx_rdy` in cycle k + 1 of a frame, from its stage. -/
theorem frameRegs_frameStage (hD : 2 ≤ D) (hpar : parity = true → par = xor8 b) :
    (frameRegs parity b par n (frameStage parity D k)).q = lineBit parity b D (k + 1) ∧
      (frameRegs parity b par n (frameStage parity D k)).state = txStateAt parity D (k + 1) ∧
      ((frameRegs parity b par n (frameStage parity D k)).rdyQ = true ↔ txBusy parity D + 2 ≤ k + 1) := by
  have hline : lineBit parity b D (k + 1) = slotLevel parity b (k / D) := lineBit_eq_slotLevel parity b (by omega) (by omega)
  have h9 := nine_mul_le_txBusy parity D
  rcases frameStage_cases parity hD k with
    ⟨h8, hg⟩ | ⟨rfl, h8, h9, hg⟩ | ⟨hlo, hhi, hg⟩ | ⟨hk, hg⟩ | ⟨hk, hg⟩
  · have hslot : k / D < 9 := (Nat.div_lt_iff_lt_mul (by omega)).mpr (by omega)
    have hbusy : k ≤ txBusy parity D := by omega
    rw [hline, hg]
    simp [frameRegs, slotLevel, hslot, txStateAt, h8, hbusy]
  · have hslot : k / D = 8 := Nat.div_eq_of_lt_le (by omega) (by omega)
    have hbusy : k ≤ txBusy true D := by omega
    rw [hline, hg]
    simp [frameRegs, slotLevel, hslot, txStateAt, h8.not_ge, h9, hbusy]
  · rw [hline, hg]
    cases parity with
    | true =>
      have hlo : 9 * D ≤ k := hlo
      have hslot : k / D = 9 := Nat.div_eq_of_lt_le hlo hhi
      have h8 : ¬ k ≤ 8 * D := by omega
      have h10 : k < 10 * D := hhi
      simp [frameRegs, slotLevel, hslot, txStateAt, h8, hlo.not_gt, h10, hhi.le, hpar]
    | false =>
      have hlo : 8 * D < k := hlo
      have hslot : k / D = 8 := Nat.div_eq_of_lt_le hlo.le hhi
      have h9 : k < 9 * D := hhi
      simp [frameRegs, slotLevel, hslot, txStateAt, hlo.not_ge, h9, hhi.le]
  · rw [lineBit_past_frame hk.ge, txStateAt_past_frame hD hk.ge, hg]
    exact ⟨rfl, rfl, iff_of_false Bool.false_ne_true (by omega)⟩
  · rw [lineBit_past_frame hk.le, txStateAt_past_frame hD hk.le, hg]
    exact ⟨rfl, rfl, iff_of_true rfl (by omega)⟩

end Outputs

/-- Settles O43. -/
theorem txFrameTimeline : Obligations.TxFrameTimeline := by
  intro s ins D c hinv hwait hreq hD hdiv hquiet hc
  obtain ⟨k, rfl⟩ : ∃ k, c = k + 1 := ⟨c - 1, by omega⟩
  have hrun : FrameRun s ins D :=
    ⟨hinv, hwait, hreq, by omega, hdiv, fun j hj => hquiet _ (Nat.lt_succ_of_le (txBusy_le_of_waiting hD hj))⟩
  obtain ⟨t, ht⟩ := exists_runPins hinv ins (k + 1)
  refine ⟨t, ht, ?_⟩
  rw [hrun.tx ht]
  exact frameRegs_frameStage hD fun hp => by rw [framePar, if_pos hp]

/-- R134: at divisor 1 DATA lasts nine cycles, and PARITY and STOP one each, so that no cycle before 12 is back in WAIT. -/
theorem frameStage_one_not_waiting {k : Nat} (hk : k < 11) : (frameStage true 1 k).waiting = false := by
  interval_cases k <;> rfl

/-- R134: the line in cycle k + 1 of a frame at divisor 1, stage by stage; from cycle 13 on the frame is over. -/
theorem frameRegs_frameStage_one_q (b : Byte) (n k : Nat) :
    (frameRegs true b (xor8 b) n (frameStage true 1 k)).q =
      if k + 1 = 1 then false
      else if k + 1 ≤ 8 then b.getLsbD (k + 1 - 2)
      else if k + 1 ≤ 10 then b.getLsbD 7
      else if k + 1 = 11 then xor8 b
      else true := by
  rcases Nat.lt_or_ge 11 k with hk | hk
  · rw [frameStage_idle (m := 11) rfl hk, if_neg (by omega), if_neg (by omega), if_neg (by omega), if_neg (by omega)]
    rfl
  · interval_cases k <;> rfl

/-- Settles O44. -/
theorem txFrameAtDivisorOne : Obligations.TxFrameAtDivisorOne := by
  intro s ins hinv hp hwait hreq hdiv hquiet c hc
  obtain ⟨k, rfl⟩ : ∃ k, c = k + 1 := ⟨c - 1, by omega⟩
  have hrun : FrameRun s ins 1 := by
    refine ⟨hinv, hwait, hreq, le_rfl, fun j => by rw [hdiv]; rfl, fun j hj => hquiet _ ?_⟩
    rw [hp] at hj
    by_contra hlt
    exact Bool.false_ne_true ((frameStage_one_not_waiting (by omega)).symm.trans hj)
  obtain ⟨t, ht⟩ := exists_runPins hinv ins (k + 1)
  have htx := hrun.tx ht
  have hcnt : t.tx.cnt = k % 1 := by rw [htx, frameRegs_cnt]
  refine ⟨t, ht, ?_, ?_⟩
  · rw [hrun.tick (k + 1) hcnt, decide_eq_true (Nat.one_dvd _)]
  · rw [htx, framePar, hp, if_pos rfl]
    exact frameRegs_frameStage_one_q _ _ k

end Sys2Proof.Machine
end

section
/-! The receiver's cycle, rule by rule (42_rx_engine.md R150 to R169). A cycle leaves what the rule whose condition holds writes,
with the counter of R102 to R105; the statements about single rules and single cycles are read off that. -/

namespace Sys2Proof.Machine

open Claims

section Choice
variable {s : State} {i : Instr}

/-- An oversampling state off the vote tick: the shared rules of R155 to R157. -/
theorem rxChoice_of_oversampling (h : oversampling s) (hv : ¬ (s.tick .rx = true ∧ s.rx.os.toNat = 15)) (atVote : Instr) :
    s.rxChoice = s.ovsChoice atVote := by
  have hanyVote (v w : Instr) : s.ovsChoice v = s.ovsChoice w := by
    unfold State.ovsChoice
    cases hk : s.tick .rx
    · rfl
    · have hlast : s.last = false := by
        rw [← Bool.not_eq_true, last_iff]
        exact fun hos => hv ⟨hk, hos⟩
      rw [hlast]
      rfl
  unfold State.rxChoice
  rcases h with hst | ⟨hst, hb⟩ | hst | hst
  case inr.inl =>
    simp only [hst, hb, Bool.false_eq_true, if_false]
    exact hanyVote _ _
  all_goals
    rw [hst]
    exact hanyVote _ _

/-- R151: no other rule of the receiver meets its condition. -/
theorem rxChoice_of_rxCondition (h : rxCondition s i) : s.rxChoice = i := by
  cases i with
  | rxWaitIdle =>
    obtain ⟨hst, he⟩ := h
    simp [State.rxChoice, hst, mt (edge_iff s).mp he]
  | rxWaitDetect =>
    obtain ⟨hst, he⟩ := h
    simp [State.rxChoice, hst, (edge_iff s).mpr he]
  | rxDataDone =>
    obtain ⟨hst, hb⟩ := h
    simp only [State.rxChoice, hst, hb, if_true]
  | rxOvsHold =>
    obtain ⟨ho, hk⟩ := h
    rw [rxChoice_of_oversampling ho (by simp [hk]) .rxDataBit]
    simp [State.ovsChoice, hk]
  | rxOvsCount =>
    obtain ⟨ho, hk, hsamp, hlast⟩ := h
    rw [rxChoice_of_oversampling ho (fun hv => hlast hv.2) .rxDataBit]
    simp [State.ovsChoice, hk, mt (samp_iff s).mp hsamp, mt (last_iff s).mp hlast]
  | rxOvsSample =>
    obtain ⟨ho, hk, hge, hle⟩ := h
    rw [rxChoice_of_oversampling ho (by omega) .rxDataBit]
    simp [State.ovsChoice, hk, (samp_iff s).mpr ⟨hge, hle⟩]
  | rxStartConfirm | rxStartReject =>
    obtain ⟨hst, hk, hos, hv⟩ := h
    have hv : s.vote = _ := hv
    simp only [State.rxChoice, hst, ovsChoice_of_vote hk hos, hv]
    rfl
  | rxDataBit =>
    obtain ⟨hst, hb, hk, hos⟩ := h
    simp only [State.rxChoice, hst, hb, ovsChoice_of_vote hk hos, Bool.false_eq_true, if_false]
  | rxParityCheck | rxStopEnd =>
    obtain ⟨hst, hk, hos⟩ := h
    simp only [State.rxChoice, hst, ovsChoice_of_vote hk hos]
  | rxIllegal001 =>
    have hst : s.rx.state = .reserved001 := h
    simp only [State.rxChoice, hst]
  | rxIllegal01X => rcases h with hst | hst <;> simp only [State.rxChoice, hst]
  | _ => exact False.elim h

theorem rxChoice_eq_iff : s.rxChoice = i ↔ rxCondition s i :=
  ⟨fun h => h ▸ rxCondition_rxChoice s, rxChoice_of_rxCondition⟩

end Choice

/-- Settles O7. -/
theorem rxRuleIsChosenByItsCondition : Obligations.RxRuleIsChosenByItsCondition := fun s =>
  ⟨_, fetch_eq s, fun _ => rxChoice_eq_iff⟩

section Words

/-- R157: replacing a bit of the window, as a mask and as a concatenation. -/
theorem insertBit_eq_windowWith : ∀ {k : Nat}, k < 3 → ∀ (w : BitVec 3) (b : Bool), insertBit w k b = windowWith w k b := by
  decide

/-- R157: the sample taken at 7, 8 or 9. -/
theorem winSample_eq_windowWith (w : BitVec 3) {os : Nibble} (b : Bool) (hge : 7 ≤ os.toNat) (hle : os.toNat ≤ 9) :
    winSample w os b = windowWith w (os.toNat - 7) b := by
  rw [winSample, if_pos ⟨hge, hle⟩, insertBit_eq_windowWith (by omega)]

/-- R74: shifting a bit in, as shifts and as a concatenation. -/
theorem shiftIn_eq_accWith (v : Bool) (acc : Byte) : shiftIn v acc = accWith v acc := by
  apply BitVec.eq_of_getLsbD_eq
  intro j hj
  have happ : (accWith v acc).getLsbD j = (BitVec.ofBool v ++ acc.extractLsb' 1 7 : BitVec (1 + 7)).getLsbD j := rfl
  rw [shiftIn_getLsbD v acc j hj, happ, BitVec.getLsbD_append]
  by_cases h7 : j = 7
  · subst h7
    simp
  · have hlt : j < 7 := by omega
    simp [h7, hlt, Nat.add_comm]

end Words

section Faults
variable {s : State}

/-- R163: the oversampling rules complete everywhere but in PARITY without RX_PARITY. -/
theorem rxLegal_on (h : ¬ (s.rx.state = .parity ∧ s.cfg.rxParity = false)) (r : Result) : rxLegal s r = r := by
  have hlegal : s.rxParityIllegal = false := by
    rw [← Bool.not_eq_true]
    simpa [State.rxParityIllegal] using h
  rw [rxLegal, hlegal, if_neg Bool.false_ne_true]

theorem rxLegal_off (hst : s.rx.state = .parity) (hp : s.cfg.rxParity = false) (r : Result) :
    rxLegal s r = .fault .rxIllegalState := by
  have hillegal : s.rxParityIllegal = true := by simp [State.rxParityIllegal, hst, hp]
  rw [rxLegal, if_pos hillegal]

theorem execRxParityCheck_off (hp : s.cfg.rxParity = false) : execRxParityCheck s = .fault .rxIllegalState := by
  rw [execRxParityCheck, hp, if_neg Bool.false_ne_true]

/-- R163: in PARITY without RX_PARITY every rule of the state faults. -/
theorem exec_rxChoice_parity_fault (hst : s.rx.state = .parity) (hp : s.cfg.rxParity = false) :
    exec s.rxChoice s = .fault .rxIllegalState := by
  simp only [State.rxChoice, hst]
  unfold State.ovsChoice
  cases s.tick .rx
  · exact rxLegal_off hst hp _
  cases s.samp
  · cases s.last
    · exact rxLegal_off hst hp _
    · exact execRxParityCheck_off hp
  · exact rxLegal_off hst hp _

/-- A receiver's fault stops the cycle when the transmitter's state is legal. -/
theorem cycle_rx_fault (htx : s.tx.state.legal s.cfg.txParity = true) {f : Fault} (h : exec s.rxChoice s = .fault f) :
    cycle s = .fault f := by
  obtain ⟨a, ha, -⟩ := exec_txChoice s htx
  rw [cycle_eq, ha, andThen_next, h, andThen_fault]

end Faults

/-- Settles O23. -/
theorem rxWaitRulesComplete : Obligations.RxWaitRulesComplete := by
  intro s
  refine ⟨rfl, ?_⟩
  rw [← insertBit_eq_windowWith (by decide)]
  rfl

/-- Settles O24. -/
theorem rxOversampleRulesComplete : Obligations.RxOversampleRulesComplete := by
  intro s
  refine ⟨fun h => ⟨rxLegal_on h _, rxLegal_on h _, fun hge hle => ?_⟩,
    fun hst hp => ⟨rxLegal_off hst hp _, rxLegal_off hst hp _, rxLegal_off hst hp _⟩⟩
  rw [← winSample_eq_windowWith _ _ hge hle]
  exact rxLegal_on h _

/-- Settles O25. -/
theorem rxStartAndDataRulesComplete : Obligations.RxStartAndDataRulesComplete := by
  intro s
  refine ⟨rfl, rfl, rfl, ?_⟩
  rw [← shiftIn_eq_accWith]
  rfl

/-- Settles O26. -/
theorem rxParityAndStopRulesComplete : Obligations.RxParityAndStopRulesComplete := fun _ =>
  ⟨fun hp => execRxParityCheck_eq_next.mpr ⟨hp, rfl⟩, execRxParityCheck_off, rfl⟩

/-- Settles O27. -/
theorem rxIllegalStatesFault : Obligations.RxIllegalStatesFault := by
  refine ⟨fun s => ⟨rfl, rfl⟩, fun s hs htx hst => (step_eq_cycle hs).trans (cycle_rx_fault htx ?_)⟩
  rcases hst with hst | hst | hst | ⟨hst, hp⟩
  · rw [rxChoice_of_rxCondition (i := .rxIllegal001) hst]
    rfl
  · rw [rxChoice_of_rxCondition (i := .rxIllegal01X) (.inl hst)]
    rfl
  · rw [rxChoice_of_rxCondition (i := .rxIllegal01X) (.inr hst)]
    rfl
  · exact exec_rxChoice_parity_fault hst hp

section Cycle
variable {s t : State} {i : Instr}

/-- The RX registers after a cycle are those of the rule whose condition holds. -/
theorem cycle_rx_of_condition (h : cycle s = .next t) (hi : rxCondition s i) :
    t.rx = { rxAfter s.cfg s.rxIn s.rx i with cnt := counterAfter .rx s } := by
  rw [cycle_rx h, rxChoice_of_rxCondition hi, nextCnt_eq_counterAfter]

/-- On a tick the counter is 0 afterwards. -/
theorem cycle_rx_of_tick (h : cycle s = .next t) (hi : rxCondition s i) (hk : s.tick .rx = true) :
    t.rx = { rxAfter s.cfg s.rxIn s.rx i with cnt := 0 } := by
  rw [cycle_rx_of_condition h hi, counterAfter_of_tick hk]

/-- A legal state's step answers the state its cycle answers. -/
theorem exists_step_of_legal (hs : s.script = []) (htx : s.tx.state.legal s.cfg.txParity = true)
    (hrx : s.rx.state.legal s.cfg.rxParity = true) : ∃ t, step s = .next t ∧ cycle s = .next t := by
  obtain ⟨t, ht⟩ := exists_cycle_of_legal (legal_iff.mpr ⟨htx, hrx⟩)
  exact ⟨t, (step_eq_cycle hs).trans ht, ht⟩

end Cycle

/-- Settles O28. -/
theorem rxWaitCycle : Obligations.RxWaitCycle := by
  intro s hs htx hst
  obtain ⟨t, ht, hc⟩ := exists_step_of_legal hs htx (by rw [hst]; rfl)
  refine ⟨t, ht, fun he => cycle_rx_of_condition (i := .rxWaitIdle) hc ⟨hst, he⟩, fun he => ?_⟩
  have hrestart : s.restart .rx = true := (restart_rx_iff s).mpr ⟨hst, (edge_iff s).mpr he⟩
  rw [cycle_rx_of_condition (i := .rxWaitDetect) hc ⟨hst, he⟩, counterAfter_of_restart hrestart,
    he.1, ← insertBit_eq_windowWith (by decide)]
  rfl

/-- Settles O29. -/
theorem rxOversampleCycle : Obligations.RxOversampleCycle := by
  intro s hs htx hrx ho
  obtain ⟨t, ht, hc⟩ := exists_step_of_legal hs htx hrx
  refine ⟨t, ht, fun hk => cycle_rx_of_condition (i := .rxOvsHold) hc ⟨ho, hk⟩, fun hk hge hle => ?_,
    fun hk hsamp hlast => cycle_rx_of_tick (i := .rxOvsCount) hc ⟨ho, hk, hsamp, hlast⟩ hk⟩
  rw [cycle_rx_of_tick (i := .rxOvsSample) hc ⟨ho, hk, hge, hle⟩ hk, ← winSample_eq_windowWith _ _ hge hle]
  rfl

/-- Settles O30. -/
theorem rxStartVoteCycle : Obligations.RxStartVoteCycle := by
  intro s hs htx hst hk hos
  obtain ⟨t, ht, hc⟩ := exists_step_of_legal hs htx (by rw [hst]; rfl)
  exact ⟨t, ht, fun hv => cycle_rx_of_tick (i := .rxStartConfirm) hc ⟨hst, hk, hos, hv⟩ hk,
    fun hv => cycle_rx_of_tick (i := .rxStartReject) hc ⟨hst, hk, hos, hv⟩ hk⟩

/-- Settles O31. -/
theorem rxDataVoteCycle : Obligations.RxDataVoteCycle := by
  intro s hs htx hst
  obtain ⟨t, ht, hc⟩ := exists_step_of_legal hs htx (by rw [hst]; rfl)
  refine ⟨fun hb => ⟨t, ht, cycle_rx_of_condition (i := .rxDataDone) hc ⟨hst, hb⟩⟩, fun hb hk hos => ⟨t, ht, ?_⟩⟩
  rw [cycle_rx_of_tick (i := .rxDataBit) hc ⟨hst, hb, hk, hos⟩ hk, ← shiftIn_eq_accWith]
  rfl

/-- Settles O32. -/
theorem rxParityVoteCycle : Obligations.RxParityVoteCycle := by
  intro s hs htx hst hp hk hos
  obtain ⟨t, ht, hc⟩ := exists_step_of_legal hs htx (by rw [hst]; exact hp)
  exact ⟨t, ht, cycle_rx_of_tick (i := .rxParityCheck) hc ⟨hst, hk, hos⟩ hk⟩

/-- Settles O33. -/
theorem rxStopVoteCycle : Obligations.RxStopVoteCycle := by
  intro s hs htx hst hk hos
  obtain ⟨t, ht, hc⟩ := exists_step_of_legal hs htx (by rw [hst]; rfl)
  refine ⟨t, ht, ?_⟩
  rw [cycle_rx_of_tick (i := .rxStopEnd) hc ⟨hst, hk, hos⟩ hk]
  cases hv : winVote s.rx.win <;> simp [rxAfter, stopError, hv]

/-- Settles O51: WAIT clears `rx_rdy_q`, a stop vote sets it, and by the invariant it is 1 in WAIT only. -/
theorem rxReadyIsAOneCyclePulse : Obligations.RxReadyIsAOneCyclePulse := by
  intro s t hinv hs ht
  rw [step_eq_cycle hs] at ht
  have hfall (hr : s.rx.rdyQ = true) : t.rx.rdyQ = false := cycle_rdyQ_of_wait ht (hinv.rx.rdy hr)
  refine ⟨⟨fun hr => ?_, cycle_rdyQ_of_stopEnd ht⟩, hfall⟩
  have hne : t.rx.rdyQ ≠ s.rx.rdyQ := by
    intro heq
    exact Bool.false_ne_true ((hfall (heq ▸ hr)).symm.trans hr)
  refine (cycle_rdyQ_written ht hne).resolve_right fun hst => ?_
  exact Bool.false_ne_true ((cycle_rdyQ_of_wait ht hst).symm.trans hr)

section Waiting
variable {s t : State} {ins : Nat → Pins}

/-- R152: in WAIT without the start condition only `rx_rdy_q` and the counter move. -/
theorem cycle_rx_waitIdle (hc : cycle s = .next t) (hst : s.rx.state = .wait) (he : ¬ startEdge s) :
    t.rx = { s.rx with rdyQ := false, cnt := s.nextCnt .rx } := by
  rw [nextCnt_eq_counterAfter]
  exact cycle_rx_of_condition (i := .rxWaitIdle) hc ⟨hst, he⟩

/-- R167: for these divisors the receiver's target is 1, so a counter at 0 stays there and the qualifier refuses every start. -/
theorem cycle_wait_below_32 {p : Pins} (hc : cycle (s.withPins p) = .next t) (hq : s.cfg.rxEdgeQualified = true)
    (hge : 16 ≤ p.divisor.toNat) (hle : p.divisor.toNat ≤ 31) (hst : s.rx.state = .wait) (hcnt : s.rx.cnt = 0) :
    t.rx.state = .wait ∧ t.rx.cnt = 0 := by
  have he : ¬ startEdge (s.withPins p) := by simp [startEdge, hq, hcnt]
  have htarget : (s.withPins p).target .rx = 1 := by
    rw [target_rx, withPins_pins]
    omega
  have htick : (s.withPins p).tick .rx = true := by
    rw [tick_iff_of_target (by omega), htarget]
    exact congrArg (· + 1) hcnt
  rw [cycle_rx_waitIdle hc hst he, nextCnt_of_tick htick]
  exact ⟨hst, rfl⟩

/-- R169: a receiver in WAIT on an idle line is in WAIT in every cycle, with the registers it began with but for the counter and
`rx_rdy_q`. -/
theorem runPins_idle_line {n : Nat} (hst : s.rx.state = .wait)
    (hline : ∀ k u, runPins ins s k = .next u → (u.withPins (ins k)).rxIn = true) (h : runPins ins s n = .next t) :
    t.rx = { s.rx with cnt := t.rx.cnt, rdyQ := t.rx.rdyQ } ∧ rxCondition (t.withPins (ins n)) .rxWaitIdle := by
  have hidle {k : Nat} {u : State} (hu : runPins ins s k = .next u) : ¬ startEdge (u.withPins (ins k)) := by
    simp [startEdge, hline k u hu]
  induction n generalizing t with
  | zero =>
    cases h
    exact ⟨rfl, hst, hidle rfl⟩
  | succ n ih =>
    obtain ⟨u, hu, hc⟩ := andThen_eq_next.mp h
    obtain ⟨hregs, hwait, -⟩ := ih hu
    have hrx : t.rx = { s.rx with cnt := t.rx.cnt, rdyQ := t.rx.rdyQ } := by
      rw [cycle_rx_waitIdle hc hwait (hidle hu), withPins_rx, hregs]
    exact ⟨hrx, by rw [withPins_rx, hrx]; exact hst, hidle h⟩

end Waiting

/-- Settles O15. -/
theorem qualifiedReceiverNeverStartsBelow32 : Obligations.QualifiedReceiverNeverStartsBelow32 := by
  intro s ins n hinv hq hst hcnt hdiv
  induction n with
  | zero => exact ⟨s, rfl, hst, hcnt⟩
  | succ n ih =>
    obtain ⟨u, hu, hwait, hzero⟩ := ih
    obtain ⟨t, ht⟩ := exists_runPins hinv ins (n + 1)
    have hc : cycle (u.withPins (ins n)) = .next t := by rw [← ht, runPins_succ, hu, andThen_next]
    have hq : u.cfg.rxEdgeQualified = true := by rw [runPins_cfg hu, hq]
    exact ⟨t, ht, cycle_wait_below_32 hc hq (hdiv n).1 (hdiv n).2 hwait hzero⟩

/-- Settles O47. -/
theorem idleLineStability : Obligations.IdleLineStability := by
  intro s ins n hinv hst hline
  refine ⟨?_, fun m u hu => (runPins_idle_line hst hline hu).2⟩
  obtain ⟨t, ht⟩ := exists_runPins hinv ins (n + 1)
  obtain ⟨u, hu, hc⟩ := andThen_eq_next.mp ht
  have hrdy : t.rx.rdyQ = false := cycle_rdyQ_of_wait hc (runPins_idle_line hst hline hu).2.1
  have hregs := (runPins_idle_line hst hline ht).1
  rw [hrdy] at hregs
  exact ⟨t, ht, hregs⟩

end Sys2Proof.Machine
end

section
/-! The receiver's frame bits, cycle by cycle (42_rx_engine.md R154 to R162, R165). After a detected start the frame bits follow
one another in spans of 16 R cycles, which end with the bit's vote. `BitSpan` says what the RX registers hold in cycle i of the
span of bit q: those the span began with, the counters of i, and the samples taken so far. `bitRegs` is what each span begins
with; the timeline of a reception is read off it. -/

namespace Sys2Proof.Machine

open Claims

/-- START, DATA, PARITY or STOP: the states in which frame bits are sampled. -/
def RxState.sampling : RxState → Bool
  | .start | .data | .parity | .stop => true
  | _ => false

/-- R154: DATA with eight bits received is left without a tick. -/
def settled (c : Config) (r : RxRegs) : RxRegs :=
  if r.state = .data ∧ r.bitcnt.getLsbD 3 = true then { r with state := if c.rxParity then .parity else .stop } else r

/-- What the vote v of a frame bit leaves, but for the oversample count (R158 to R162). -/
def voted (c : Config) (v : Bool) (r : RxRegs) : RxRegs :=
  match r.state with
  | .start => { r with state := if v then .wait else .data }
  | .data => { r with acc := shiftIn v r.acc, bitcnt := r.bitcnt + 1 }
  | .parity => { r with errorQ := parityError r.acc v, buffQ := r.acc, state := .stop }
  | .stop =>
    { r with
      errorQ := stopError v r.errorQ, buffQ := if c.rxParity then r.buffQ else r.acc, rdyQ := true, bitcnt := 0
      state := .wait }
  | _ => r

/-- The rule of a frame bit's vote v. -/
def voteRule (v : Bool) : RxState → Instr
  | .start => if v then .rxStartReject else .rxStartConfirm
  | .data => .rxDataBit
  | .parity => .rxParityCheck
  | _ => .rxStopEnd

/-- The registers `u` in cycle i of the span of frame bit q that began with the registers `r`: the counters are those of i, and
window bit j holds the sample of tick 8 + j once that tick is past. -/
structure BitSpan (level : Nat → Bool) (R q i : Nat) (r u : RxRegs) : Prop where
  regs : u = { r with cnt := i % R, os := BitVec.ofNat 4 (i / R), win := u.win }
  win : ∀ j < 3, 8 + j ≤ i / R → u.win.getLsbD j = level (16 * R * q + (8 + j) * R)

section Settled
variable {c : Config} {r : RxRegs}

theorem settled_eq_self (h : r.state = .data → r.bitcnt.getLsbD 3 = false) : settled c r = r := by
  rw [settled, if_neg]
  rintro ⟨hst, hb⟩
  exact Bool.false_ne_true ((h hst).symm.trans hb)

theorem settled_of_full (hst : r.state = .data) (hb : r.bitcnt.getLsbD 3 = true) :
    settled c r = { r with state := if c.rxParity then .parity else .stop } := by
  rw [settled, if_pos ⟨hst, hb⟩]

/-- A settled receiver that samples is in none of the states that RX.DATA.DONE leaves. -/
theorem settled_data (hst : (settled c r).state = .data) : (settled c r).bitcnt.getLsbD 3 = false := by
  by_cases hfull : r.state = .data ∧ r.bitcnt.getLsbD 3 = true
  · rw [settled_of_full hfull.1 hfull.2] at hst
    cases hp : c.rxParity <;> simp [hp] at hst
  · rw [settled, if_neg hfull] at hst ⊢
    simpa [hst] using hfull

theorem settled_sampling (h : r.state.sampling = true) : (settled c r).state.sampling = true := by
  unfold settled
  split
  · cases c.rxParity <;> rfl
  · exact h

end Settled

section Vote

/-- At the vote tick the condition of the bit's rule holds. -/
theorem rxCondition_voteRule {s : State} (ho : oversampling s) (hk : s.tick .rx = true) (hos : s.rx.os.toNat = 15) :
    rxCondition s (voteRule (winVote s.rx.win) s.rx.state) := by
  rcases ho with hst | ⟨hst, hb⟩ | hst | hst <;> rw [hst]
  · cases hv : winVote s.rx.win <;> exact ⟨hst, hk, hos, hv⟩
  · exact ⟨hst, hb, hk, hos⟩
  · exact ⟨hst, hk, hos⟩
  · exact ⟨hst, hk, hos⟩

/-- The rule of a frame bit's vote writes what the vote leaves, and clears the oversample count. -/
theorem rxAfter_voteRule (c : Config) (line : Bool) {r : RxRegs} (h : r.state.sampling = true) :
    rxAfter c line r (voteRule (winVote r.win) r.state) = { voted c (winVote r.win) r with os := 0 } := by
  obtain ⟨state, cnt, os, win, acc, bitcnt, buffQ, rdyQ, errorQ⟩ := r
  cases state
  case start =>
    dsimp only
    cases winVote win <;> rfl
  case data | parity | stop => rfl
  all_goals cases h

/-- What a vote leaves does not depend on the counters or the window, and keeps them. -/
theorem voted_counters (c : Config) (v : Bool) (r : RxRegs) (n : Nat) (os : Nibble) (win : BitVec 3) :
    voted c v { r with cnt := n, os := os, win := win } = { voted c v r with cnt := n, os := os, win := win } := by
  obtain ⟨state, -⟩ := r
  cases state <;> rfl

end Vote

namespace BitSpan
variable {level : Nat → Bool} {R q i : Nat} {r : RxRegs} {s t : State}

theorem state (h : BitSpan level R q i r s.rx) : s.rx.state = r.state := by rw [h.regs]

theorem bitcnt (h : BitSpan level R q i r s.rx) : s.rx.bitcnt = r.bitcnt := by rw [h.regs]

theorem cnt (h : BitSpan level R q i r s.rx) : s.cnt .rx = i % R := congrArg RxRegs.cnt h.regs

theorem os (h : BitSpan level R q i r s.rx) (hi : i < 16 * R) : s.rx.os.toNat = i / R := by
  rw [congrArg RxRegs.os h.regs]
  exact Nat.mod_eq_of_lt (Nat.div_lt_of_lt_mul (by rwa [Nat.mul_comm]))

/-- The ticks come in every R-th cycle of a span. -/
theorem tick_iff (h : BitSpan level R q i r s.rx) (hR : 2 ≤ R) (hT : s.target .rx = R) : s.tick .rx = true ↔ R ∣ i + 1 := by
  rw [tick_iff_of_target (by omega), hT, h.cnt, mod_succ_eq_iff_dvd (by omega)]

/-- Outside WAIT nothing restarts the counter. -/
theorem nextCnt (h : BitSpan level R q i r s.rx) (hR : 2 ≤ R) (hT : s.target .rx = R) (hW : R < 2 ^ s.cntW .rx)
    (hst : r.state.sampling = true) : s.nextCnt .rx = (i + 1) % R := by
  have hr : s.restart .rx = false := by
    rw [← Bool.not_eq_true, restart_rx_iff, h.state]
    rintro ⟨hwait, -⟩
    rw [hwait] at hst
    cases hst
  have hlt : i % R < R := Nat.mod_lt i (by omega)
  rw [nextCnt_of_target hr (by omega), hT, h.cnt, incCnt_of_lt (by omega), mod_succ_eq_ite (by omega)]

theorem oversampling (h : BitSpan level R q i r s.rx) (hst : r.state.sampling = true)
    (hfull : r.state = .data → r.bitcnt.getLsbD 3 = false) : oversampling s := by
  unfold Claims.oversampling
  rw [h.state, h.bitcnt]
  cases hs : r.state <;> rw [hs] at hst hfull
  case start => exact .inl rfl
  case data => exact .inr (.inl ⟨rfl, hfull rfl⟩)
  case parity => exact .inr (.inr (.inl rfl))
  case stop => exact .inr (.inr (.inr rfl))
  all_goals cases hst

end BitSpan

section Cycle
variable {level : Nat → Bool} {R q i : Nat} {r : RxRegs} {s t : State}

/-- R156, R157: a tick away from the vote counts, and samples at 7, 8 and 9. -/
theorem cycle_rx_ovsTick (hc : cycle s = .next t) (ho : oversampling s) (hk : s.tick .rx = true) (hos : s.rx.os.toNat ≠ 15) :
    t.rx = { s.rx with win := winSample s.rx.win s.rx.os s.rxIn, os := s.rx.os + 1, cnt := 0 } := by
  by_cases hsamp : 7 ≤ s.rx.os.toNat ∧ s.rx.os.toNat ≤ 9
  · exact cycle_rx_of_tick (i := .rxOvsSample) hc ⟨ho, hk, hsamp⟩ hk
  · rw [cycle_rx_of_tick (i := .rxOvsCount) hc ⟨ho, hk, hsamp, hos⟩ hk, winSample, if_neg hsamp]
    rfl

/-- R157: the tick that ends cycle i of a span puts the sample of that cycle in its bit of the window, if it has one. -/
theorem winSample_of_span (h : BitSpan level R q i r s.rx) (hi : i < 16 * R) (hdvd : R ∣ i + 1)
    (hline : s.rxIn = level (16 * R * q + (i + 1))) :
    ∀ j < 3, 8 + j ≤ i / R + 1 →
      (winSample s.rx.win s.rx.os s.rxIn).getLsbD j = level (16 * R * q + (8 + j) * R) := by
  intro j hj hle
  have hos := h.os hi
  have hcycle : (i / R + 1) * R = i + 1 := by
    have hdiv : (i + 1) / R = i / R + 1 := by rw [Nat.succ_div, if_pos hdvd]
    rw [← hdiv, Nat.div_mul_cancel hdvd]
  by_cases hnew : 8 + j = i / R + 1
  · rw [winSample, if_pos (by omega), insertBit_getLsbD _ _ _ (by omega) j hj, if_pos (by omega), hline, hnew, hcycle]
  · rw [← h.win j hj (by omega), winSample]
    split
    · rw [insertBit_getLsbD _ _ _ (by omega) j hj, if_neg (by omega)]
    · rfl

/-- R155 to R157: a cycle within a span, before its vote, takes it to the span's next cycle. -/
theorem cycle_within_span (hc : cycle s = .next t) (h : BitSpan level R q i r s.rx) (ho : oversampling s)
    (hst : r.state.sampling = true) (hR : 2 ≤ R) (hT : s.target .rx = R) (hW : R < 2 ^ s.cntW .rx)
    (hline : s.rxIn = level (16 * R * q + (i + 1))) (hi : i + 1 < 16 * R) : BitSpan level R q (i + 1) r t.rx := by
  by_cases hk : s.tick .rx = true
  · have hdvd := (h.tick_iff hR hT).mp hk
    have hdiv : (i + 1) / R = i / R + 1 := by rw [Nat.succ_div, if_pos hdvd]
    have hlt : (i + 1) / R < 16 := Nat.div_lt_of_lt_mul (by rwa [Nat.mul_comm])
    have hos := h.os (by omega)
    rw [cycle_rx_ovsTick hc ho hk (by omega)]
    refine ⟨?_, fun j hj hle => winSample_of_span h (by omega) hdvd hline j hj (hdiv ▸ hle)⟩
    rw [h.regs, Nat.mod_eq_zero_of_dvd hdvd, hdiv, BitVec.ofNat_add]
    rfl
  · have hdvd : ¬ R ∣ i + 1 := mt (h.tick_iff hR hT).mpr hk
    have hdiv : (i + 1) / R = i / R := by rw [Nat.succ_div, if_neg hdvd, Nat.add_zero]
    rw [cycle_rx_of_condition (i := .rxOvsHold) hc ⟨ho, by simpa using hk⟩, ← nextCnt_eq_counterAfter,
      h.nextCnt hR hT hW hst]
    refine ⟨?_, fun j hj hle => h.win j hj (hdiv ▸ hle)⟩
    rw [hdiv]
    exact congrArg (fun u : RxRegs => { u with cnt := (i + 1) % R }) h.regs

/-- R154: a span that begins in DATA with eight bits received goes on in PARITY or STOP. -/
theorem cycle_data_done (hc : cycle s = .next t) (h : BitSpan level R q 0 r s.rx) (hst : r.state = .data)
    (hb : r.bitcnt.getLsbD 3 = true) (hR : 2 ≤ R) (hT : s.target .rx = R) (hW : R < 2 ^ s.cntW .rx) :
    BitSpan level R q 1 (settled s.cfg r) t.rx := by
  have hi : rxCondition s .rxDataDone := ⟨h.state.trans hst, by rw [h.bitcnt, hb]⟩
  have hnext := h.nextCnt hR hT hW (by rw [hst]; rfl)
  have hdiv : 1 / R = 0 := Nat.div_eq_of_lt hR
  rw [cycle_rx_of_condition hc hi, ← nextCnt_eq_counterAfter, hnext, settled_of_full hst hb]
  refine ⟨?_, fun j _ hle => by omega⟩
  rw [h.regs, Nat.zero_div, hdiv]
  rfl

/-- R158 to R162: the vote of a frame bit, in the last cycle of its span, is that of its three samples. -/
theorem cycle_bit_vote (hc : cycle s = .next t) (h : BitSpan level R q i r s.rx) (ho : oversampling s)
    (hR : 2 ≤ R) (hT : s.target .rx = R) (hi : i + 1 = 16 * R) :
    BitSpan level R (q + 1) 0 (voted s.cfg (sampledBit level R q) r) t.rx := by
  have hk : s.tick .rx = true := (h.tick_iff hR hT).mpr ⟨16, by omega⟩
  have hdiv : i / R = 15 := Nat.div_eq_of_lt_le (by omega) (by omega)
  have hos : s.rx.os.toNat = 15 := (h.os (by omega)).trans hdiv
  have hvote : winVote s.rx.win = sampledBit level R q := by
    rw [winVote, h.win 0 (by decide) (by omega), h.win 1 (by decide) (by omega), h.win 2 (by decide) (by omega)]
    rfl
  have hst : s.rx.state.sampling = true := by rcases ho with ho | ⟨ho, -⟩ | ho | ho <;> rw [ho] <;> rfl
  have hregs := cycle_rx_of_tick hc (rxCondition_voteRule ho hk hos) hk
  rw [rxAfter_voteRule _ _ hst, hvote, h.regs, voted_counters] at hregs
  refine ⟨?_, fun j _ hle => by rw [Nat.zero_div] at hle; omega⟩
  rw [Nat.zero_mod, Nat.zero_div, hregs]
  rfl

end Cycle

end Sys2Proof.Machine
end

section
/-! Receptions (42_rx_engine.md R159, R165): the spans of a run that begins with a detected start, and what each begins with. -/

namespace Sys2Proof.Machine

open Claims

/-- What ReceptionTimeline and FalseStartIsNotReported share: a start detected in cycle 0 at a constant receiver's target R of 2
or more, with the line at the levels `level`. -/
structure Reception (s : State) (ins : Nat → Pins) (level : Nat → Bool) (R : Nat) : Prop where
  inv : Inv s
  wait : s.rx.state = .wait
  target : ∀ k, (ins k).divisor.toNat / 16 = R
  two_le : 2 ≤ R
  line : ∀ k u, runPins ins s k = .next u → (u.withPins (ins k)).rxIn = level k
  detect : (s.withPins (ins 0)).detect = true

/-- What the span of frame bit q begins with, but for the counters and the window. -/
def bitRegs (c : Config) (level : Nat → Bool) (R : Nat) (r : RxRegs) : Nat → RxRegs
  | 0 => { r with rdyQ := false, state := .start }
  | q + 1 => voted c (sampledBit level R q) (settled c (bitRegs c level R r q))

section Spans
variable {s t u : State} {ins : Nat → Pins} {level : Nat → Bool} {R q i : Nat} {r : RxRegs}

theorem Reception.target_eq (h : Reception s ins level R) (u : State) (c : Nat) : (u.withPins (ins c)).target .rx = R := by
  rw [target_rx, withPins_pins, h.target c]

theorem Reception.lt_two_pow (h : Reception s ins level R) (hu : runPins ins s i = .next u) (c : Nat) :
    R < 2 ^ (u.withPins (ins c)).cntW .rx := by
  rw [← h.target_eq u c]
  refine target_lt_two_pow ?_ .rx
  rw [withPins_cfg, runPins_cfg hu, h.inv.cfg_wf]

/-- R153: the span of the start bit begins in the cycle after detection. -/
theorem Reception.start (h : Reception s ins level R) (ht : runPins ins s 1 = .next t) :
    BitSpan level R 0 0 (bitRegs s.cfg level R s.rx 0) t.rx := by
  obtain ⟨u, hu, hc⟩ := andThen_eq_next.mp ht
  cases hu
  have hrestart : (s.withPins (ins 0)).restart .rx = true := h.detect
  obtain ⟨hst, he⟩ := (restart_rx_iff _).mp hrestart
  rw [cycle_rx_of_condition (i := .rxWaitDetect) hc ⟨hst, (edge_iff _).mp he⟩, counterAfter_of_restart hrestart]
  refine ⟨?_, fun j _ hle => by rw [Nat.zero_div] at hle; omega⟩
  rw [Nat.zero_mod, Nat.zero_div]
  rfl

/-- From its second cycle on a span holds what it began with, settled. -/
theorem Reception.within (h : Reception s ins level R) (hst : r.state.sampling = true)
    (hbegin : ∀ t, runPins ins s (16 * R * q + 1) = .next t → BitSpan level R q 0 r t.rx) (hi : i + 1 < 16 * R)
    (ht : runPins ins s (16 * R * q + (i + 1) + 1) = .next t) : BitSpan level R q (i + 1) (settled s.cfg r) t.rx := by
  induction i generalizing t with
  | zero =>
    obtain ⟨u, hu, hc⟩ := andThen_eq_next.mp ht
    have hspan := hbegin u hu
    have hT := h.target_eq u (16 * R * q + 1)
    have hW := h.lt_two_pow hu (16 * R * q + 1)
    by_cases hfull : r.state = .data ∧ r.bitcnt.getLsbD 3 = true
    · rw [← runPins_cfg hu]
      exact cycle_data_done (s := u.withPins _) hc hspan hfull.1 hfull.2 h.two_le hT hW
    · have hdata (hd : r.state = .data) : r.bitcnt.getLsbD 3 = false := by simpa [hd] using hfull
      rw [settled_eq_self hdata]
      exact cycle_within_span hc hspan (hspan.oversampling (s := u.withPins _) hst hdata) hst h.two_le hT hW
        (h.line _ u hu) hi
  | succ i ih =>
    obtain ⟨u, hu, hc⟩ := andThen_eq_next.mp ht
    have hspan := ih (by omega) hu
    have hst := settled_sampling (c := s.cfg) hst
    exact cycle_within_span hc hspan (hspan.oversampling (s := u.withPins _) hst settled_data) hst h.two_le
      (h.target_eq u _) (h.lt_two_pow hu _) (h.line _ u hu) hi

/-- Each span ends with the vote of its bit, which begins the next. -/
theorem Reception.vote (h : Reception s ins level R) (hst : r.state.sampling = true)
    (hbegin : ∀ t, runPins ins s (16 * R * q + 1) = .next t → BitSpan level R q 0 r t.rx)
    (ht : runPins ins s (16 * R * (q + 1) + 1) = .next t) :
    BitSpan level R (q + 1) 0 (voted s.cfg (sampledBit level R q) (settled s.cfg r)) t.rx := by
  obtain ⟨i, hi⟩ : ∃ i, 16 * R = i + 2 := ⟨16 * R - 2, by have := h.two_le; omega⟩
  obtain ⟨u, hu, hc⟩ := andThen_eq_next.mp ht
  have hlast : 16 * R * (q + 1) = 16 * R * q + (i + 1) + 1 := by rw [Nat.mul_succ]; omega
  rw [hlast] at hu hc
  have hspan := h.within hst hbegin (by omega) hu
  have hst := settled_sampling (c := s.cfg) hst
  have hnext := cycle_bit_vote hc hspan (hspan.oversampling (s := u.withPins _) hst settled_data) h.two_le
    (h.target_eq u _) (by omega)
  rwa [withPins_cfg, runPins_cfg hu] at hnext

/-- As long as the receiver samples, the spans begin with `bitRegs`. -/
theorem Reception.begins (h : Reception s ins level R)
    (hst : ∀ p < q, (bitRegs s.cfg level R s.rx p).state.sampling = true)
    (ht : runPins ins s (16 * R * q + 1) = .next t) : BitSpan level R q 0 (bitRegs s.cfg level R s.rx q) t.rx := by
  induction q generalizing t with
  | zero => exact h.start ht
  | succ q ih => exact h.vote (hst q (by omega)) (fun t => ih fun p hp => hst p (by omega)) ht

/-- So in each cycle of these spans the registers are those one of them began with, settled or not yet. -/
theorem Reception.span (h : Reception s ins level R)
    (hst : ∀ p < q, (bitRegs s.cfg level R s.rx p).state.sampling = true) {c : Nat} (hc : 1 ≤ c) (hcq : c ≤ 16 * R * q)
    (ht : runPins ins s c = .next t) :
    ∃ p < q, ∃ i r, BitSpan level R p i r t.rx ∧
      (r = bitRegs s.cfg level R s.rx p ∨ r = settled s.cfg (bitRegs s.cfg level R s.rx p)) := by
  have hR := h.two_le
  have hdiv := Nat.div_add_mod (c - 1) (16 * R)
  have hi : (c - 1) % (16 * R) < 16 * R := Nat.mod_lt _ (by omega)
  have hp : (c - 1) / (16 * R) < q := Nat.div_lt_of_lt_mul (by omega)
  generalize (c - 1) / (16 * R) = p at hdiv hp
  generalize (c - 1) % (16 * R) = i at hdiv hi
  have hbegin (u : State) (hu : runPins ins s (16 * R * p + 1) = .next u) :=
    h.begins (fun p' hp' => hst p' (by omega)) hu
  refine ⟨p, hp, i, ?_⟩
  cases i with
  | zero =>
    obtain rfl : c = 16 * R * p + 1 := by omega
    exact ⟨_, hbegin t ht, .inl rfl⟩
  | succ i =>
    obtain rfl : c = 16 * R * p + (i + 1) + 1 := by omega
    exact ⟨_, h.within (hst p hp) hbegin hi ht, .inr rfl⟩

/-- R164: and `rx_rdy` is 0 there. -/
theorem Reception.rdyQ (h : Reception s ins level R)
    (hst : ∀ p < q, (bitRegs s.cfg level R s.rx p).state.sampling = true) {c : Nat} (hc : 1 ≤ c) (hcq : c ≤ 16 * R * q)
    (ht : runPins ins s c = .next t) : t.rx.rdyQ = false := by
  rw [← Bool.not_eq_true]
  refine (runPins_inv h.inv ht).rx.rdyQ_of_busy fun hwait => ?_
  obtain ⟨p, hp, i, r, hspan, hr⟩ := h.span hst hc hcq ht
  have hs : r.state.sampling = true := by
    rcases hr with rfl | rfl
    · exact hst p hp
    · exact settled_sampling (hst p hp)
  rw [← hspan.state, hwait] at hs
  cases hs

end Spans

section Byte
variable {level : Nat → Bool} {R : Nat}

/-- R74: the accumulator after b data bits. -/
def receivedBits (level : Nat → Bool) (R : Nat) (acc : Byte) : Nat → Byte
  | 0 => acc
  | b + 1 => shiftIn (sampledBit level R (b + 1)) (receivedBits level R acc b)

theorem sampledByte_getLsbD (level : Nat → Bool) (R : Nat) {j : Nat} (hj : j < 8) :
    (sampledByte level R).getLsbD j = sampledBit level R (j + 1) := by
  let bits := (List.range 8).map fun k => sampledBit level R (k + 1)
  have hlt : bitsWord bits < 2 ^ 8 := bitsWord_lt bits
  have hword : (sampledByte level R).toNat = bitsWord bits := by
    rw [sampledByte, BitVec.toNat_ofNat, Nat.mod_eq_of_lt hlt]
  have hbits : wordBits 8 (bitsWord bits) = bits := wordBits_bitsWord bits
  rw [← hword, wordBits_toNat] at hbits
  exact List.map_inj_left.mp hbits j (List.mem_range.mpr hj)

/-- The bits received so far are the accumulator's upper ones, the first of them lowest. -/
theorem receivedBits_getLsbD (acc : Byte) {b j : Nat} (hj : j < 8) (hb : 8 ≤ j + b) :
    (receivedBits level R acc b).getLsbD j = sampledBit level R (j + b - 7) := by
  induction b generalizing j with
  | zero => omega
  | succ b ih =>
    rw [receivedBits, shiftIn_getLsbD _ _ j hj]
    split
    case isTrue h7 => congr 1; omega
    case isFalse h7 => rw [ih (by omega) (by omega)]; congr 1; omega

theorem receivedBits_eight (acc : Byte) : receivedBits level R acc 8 = sampledByte level R :=
  BitVec.eq_of_getLsbD_eq fun j hj => by
    rw [receivedBits_getLsbD acc hj (by omega), sampledByte_getLsbD level R hj]
    rfl

end Byte

section Frame
variable {c : Config} {level : Nat → Bool} {R : Nat} {r : RxRegs}

/-- R158, R159: after the start bit. -/
theorem bitRegs_one (c : Config) (level : Nat → Bool) (R : Nat) (r : RxRegs) :
    bitRegs c level R r 1 = { r with rdyQ := false, state := if sampledBit level R 0 then .wait else .data } := by
  rfl

/-- R160: after the start bit, voted 0, and b data bits. -/
theorem bitRegs_data (hstart : sampledBit level R 0 = false) (hbit : r.bitcnt = 0#4) {b : Nat} (hb : b ≤ 8) :
    bitRegs c level R r (b + 1) =
      { r with rdyQ := false, state := .data, bitcnt := BitVec.ofNat 4 b, acc := receivedBits level R r.acc b } := by
  induction b with
  | zero =>
    rw [bitRegs_one, hstart, ← hbit]
    rfl
  | succ b ih =>
    have hlow : (BitVec.ofNat 4 b).getLsbD 3 = false := by
      rw [bit3_ofNat (by omega), decide_eq_false (by omega)]
    have hprev := ih (by omega)
    have hunsettled : settled c (bitRegs c level R r (b + 1)) = bitRegs c level R r (b + 1) :=
      settled_eq_self fun _ => by rw [hprev, hlow]
    rw [bitRegs, hunsettled, hprev, BitVec.ofNat_add]
    rfl

/-- R154: the last data bit leaves the byte, and its successor's span goes on in PARITY or STOP. -/
theorem bitRegs_nine (hstart : sampledBit level R 0 = false) (hbit : r.bitcnt = 0#4) :
    bitRegs c level R r 9 = { r with rdyQ := false, state := .data, bitcnt := 8, acc := sampledByte level R } := by
  rw [← receivedBits_eight r.acc]
  exact bitRegs_data hstart hbit le_rfl

theorem settled_bitRegs_nine (hstart : sampledBit level R 0 = false) (hbit : r.bitcnt = 0#4) :
    settled c (bitRegs c level R r 9) =
      { r with
        rdyQ := false, state := if c.rxParity then .parity else .stop, bitcnt := 8, acc := sampledByte level R } := by
  rw [bitRegs_nine hstart hbit]
  exact settled_of_full rfl (bit3_ofNat le_rfl)

/-- R161: after the parity bit. -/
theorem bitRegs_ten_parity (hp : c.rxParity = true) (hstart : sampledBit level R 0 = false) (hbit : r.bitcnt = 0#4) :
    bitRegs c level R r 10 =
      { r with
        rdyQ := false, state := .stop, bitcnt := 8, acc := sampledByte level R, buffQ := sampledByte level R
        errorQ := parityError (sampledByte level R) (sampledBit level R 9) } := by
  have hnine := settled_bitRegs_nine (c := c) hstart hbit
  rw [hp] at hnine
  exact congrArg (voted c (sampledBit level R 9)) hnine

/-- The number of frame bits. -/
def frameLength (parity : Bool) : Nat := if parity then 11 else 10

theorem stopVote_eq (parity : Bool) (R : Nat) : stopVote parity R = 16 * R * frameLength parity := by
  cases parity
  · exact Nat.mul_right_comm 16 10 R
  · exact Nat.mul_right_comm 16 11 R

/-- R162: after the stop bit. -/
theorem bitRegs_frameLength (hstart : sampledBit level R 0 = false) (hbit : r.bitcnt = 0#4) :
    bitRegs c level R r (frameLength c.rxParity) =
      { r with
        rdyQ := true, state := .wait, bitcnt := 0, acc := sampledByte level R, buffQ := sampledByte level R
        errorQ :=
          if c.rxParity then
            stopError (sampledBit level R 10) (parityError (sampledByte level R) (sampledBit level R 9))
          else stopError (sampledBit level R 9) r.errorQ } := by
  cases hp : c.rxParity with
  | true =>
    have hten := bitRegs_ten_parity hp hstart hbit
    have hunsettled : settled c (bitRegs c level R r 10) = bitRegs c level R r 10 :=
      settled_eq_self fun hd => by rw [hten] at hd; cases hd
    rw [frameLength, if_pos rfl, bitRegs, hunsettled, hten]
    simp only [voted, hp]
    rfl
  | false =>
    rw [frameLength, if_neg Bool.false_ne_true, bitRegs, settled_bitRegs_nine hstart hbit]
    simp only [voted, hp]
    rfl

/-- Up to the stop bit's vote the receiver samples. -/
theorem bitRegs_sampling (hstart : sampledBit level R 0 = false) (hbit : r.bitcnt = 0#4) :
    ∀ q < frameLength c.rxParity, (bitRegs c level R r q).state.sampling = true := by
  intro q hq
  rcases q with _ | b
  · rfl
  · rcases Nat.lt_or_ge 8 b with h8 | h8
    · cases hp : c.rxParity with
      | false =>
        rw [hp] at hq
        exact absurd hq (by simp [frameLength]; omega)
      | true =>
        rw [hp] at hq
        obtain rfl : b = 9 := by simp [frameLength] at hq; omega
        rw [bitRegs_ten_parity hp hstart hbit]
        rfl
    · rw [bitRegs_data hstart hbit h8]
      rfl

end Frame

/-- Settles O45. -/
theorem receptionTimeline : Obligations.ReceptionTimeline := by
  intro s ins level R hinv hwait hT hR hline hdetect hstart parity byte
  have h : Reception s ins level R := ⟨hinv, hwait, hT, hR, hline, hdetect⟩
  obtain ⟨-, hbit⟩ := hinv.rx.wait_zero hwait
  have hsampling : ∀ q < frameLength parity, (bitRegs s.cfg level R s.rx q).state.sampling = true :=
    bitRegs_sampling hstart hbit
  rw [stopVote_eq]
  refine ⟨fun hp => ?_, ?_, fun c t hc hle ht => h.rdyQ hsampling hc hle ht⟩
  · have hp : s.cfg.rxParity = true := hp
    obtain ⟨t, ht⟩ := exists_runPins hinv ins (16 * R * 10 + 1)
    have hregs := (h.begins (fun p hlt => hsampling p (by simp [parity, hp, frameLength]; omega)) ht).regs
    rw [bitRegs_ten_parity hp hstart hbit] at hregs
    refine ⟨t, by rw [← ht]; congr 1; omega, ?_⟩
    rw [hregs]
    exact ⟨rfl, rfl⟩
  · obtain ⟨t, ht⟩ := exists_runPins hinv ins (16 * R * frameLength parity + 1)
    have hregs := (h.begins hsampling ht).regs
    rw [bitRegs_frameLength hstart hbit] at hregs
    refine ⟨t, ht, ?_⟩
    rw [hregs]
    exact ⟨rfl, rfl, rfl, rfl⟩

/-- Settles O46. -/
theorem falseStartIsNotReported : Obligations.FalseStartIsNotReported := by
  intro s ins level R hinv hwait hT hR hline hdetect hstart c hc hle
  have h : Reception s ins level R := ⟨hinv, hwait, hT, hR, hline, hdetect⟩
  obtain ⟨t, ht⟩ := exists_runPins hinv ins c
  refine ⟨t, ht, ?_⟩
  have hsampling : ∀ q < 1, (bitRegs s.cfg level R s.rx q).state.sampling = true := by
    intro q hq
    obtain rfl : q = 0 := by omega
    rfl
  by_cases hlast : c ≤ 16 * R
  · obtain ⟨p, hp, i, r, hspan, hr⟩ := h.span hsampling hc (by omega) ht
    obtain rfl : p = 0 := by omega
    rw [settled_eq_self (fun hd => by cases hd), or_self] at hr
    rw [hspan.regs, hr, if_pos hlast]
    exact ⟨rfl, rfl, rfl, rfl⟩
  · obtain rfl : c = 16 * R * 1 + 1 := by omega
    rw [(h.begins hsampling ht).regs, bitRegs_one, hstart, if_neg hlast]
    exact ⟨rfl, rfl, rfl, rfl⟩

end Sys2Proof.Machine
end

section
/-! The round trip (42_rx_engine.md R168): a reception from the line of R132 on `tx`, looped to `rx`. -/

namespace Sys2Proof.Machine

open Claims

/-- What LoopbackRoundTrip and LoopbackFailsPastTheBound share: equal parity, `tx` high and looped to `rx`, both engines in WAIT,
a constant divisor D of 32 or more, and one request, in cycle 0. -/
structure Loopback (s : State) (ins : Nat → Pins) (D : Nat) : Prop where
  inv : Inv s
  parity : s.cfg.txParity = s.cfg.rxParity
  tx_wait : s.tx.state = .wait
  tx_high : s.tx.q = true
  rx_wait : s.rx.state = .wait
  pins : ∀ k, (ins k).divisor.toNat = D ∧ (ins k).line = .loop
  req : (ins 0).txReq = true
  quiet : ∀ k, 1 ≤ k → (ins k).txReq = false
  le : 32 ≤ D

/-- The levels on the line from cycle d after the acceptance on. -/
def frameLine (parity : Bool) (b : Byte) (D d k : Nat) : Bool := lineBit parity b D (d + k)

section Samples
variable {parity : Bool} {b : Byte} {D d q : Nat}

theorem lineBit_of_slot {c : Nat} (hc : 1 ≤ c) (hlo : q * D ≤ c - 1) (hhi : c - 1 < (q + 1) * D) :
    lineBit parity b D c = slotLevel parity b q := by
  have hD : 1 ≤ D := Nat.pos_of_ne_zero fun h => by simp [h] at hhi
  rw [lineBit_eq_slotLevel parity b hD hc, Nat.div_eq_of_lt_le hlo hhi]

/-- The start of slot q, by the receiver's bit period and the part of the divisor it drops. -/
theorem slot_start (D q : Nat) : q * D = 16 * (D / 16) * q + q * (D % 16) := by
  have hdiv : D = 16 * (D / 16) + D % 16 := (Nat.div_add_mod D 16).symm
  calc q * D = q * (16 * (D / 16) + D % 16) := by rw [← hdiv]
    _ = 16 * (D / 16) * q + q * (D % 16) := by rw [Nat.mul_add, Nat.mul_comm q (16 * (D / 16))]

/-- R168: while the bits have drifted by 9 R at most, two of the three samples lie in the bit, and the vote is its level. -/
theorem sampledBit_within_bound (hd : d = 1 ∨ d = 2) (hD : 32 ≤ D) (hdrift : q * (D % 16) ≤ 9 * (D / 16)) :
    sampledBit (frameLine parity b D d) (D / 16) q = slotLevel parity b q := by
  have hslot := slot_start D q
  have hnext : (q + 1) * D = q * D + D := Nat.succ_mul q D
  have hinside (j : Nat) (hj : j = 9 ∨ j = 10) :
      frameLine parity b D d (16 * (D / 16) * q + j * (D / 16)) = slotLevel parity b q := by
    rcases hj with rfl | rfl <;> exact lineBit_of_slot (by omega) (by omega) (by omega)
  rw [sampledBit, hinside 9 (.inl rfl), hinside 10 (.inr rfl), maj3_agree_last]

/-- R168: past the bound, two of the three samples of a bit of a frame detected one cycle after acceptance come before it. -/
theorem sampledBit_past_bound {v : Bool} (hD : 32 ≤ D) (hdrift : 9 * (D / 16) < q * (D % 16))
    (hbefore : ∀ p < q, slotLevel parity b p = v) : sampledBit (frameLine parity b D 1) (D / 16) q = v := by
  have hslot := slot_start D q
  have hbefore (j : Nat) (hj : j ≤ 9) : frameLine parity b D 1 (16 * (D / 16) * q + j * (D / 16)) = v := by
    have hle : j * (D / 16) ≤ 9 * (D / 16) := Nat.mul_le_mul_right _ hj
    rw [frameLine, lineBit_eq_slotLevel parity b (by omega) (by omega)]
    exact hbefore _ (Nat.div_lt_of_lt_mul (by rw [Nat.mul_comm D]; omega))
  rw [sampledBit, hbefore 8 (by omega), hbefore 9 le_rfl, maj3_agree_first]

/-- R70: the data bits of the frame. -/
theorem slotLevel_data {j : Nat} (hj : j < 8) : slotLevel parity b (j + 1) = b.getLsbD j := by
  rw [slotLevel, if_neg (by omega), if_pos (by omega), Nat.add_sub_cancel]

/-- R71: the parity bit. -/
theorem slotLevel_parity (b : Byte) : slotLevel true b 9 = xor8 b := rfl

/-- R70: the stop bit. -/
theorem slotLevel_stop (parity : Bool) (b : Byte) : slotLevel parity b (frameSpan parity) = true := by
  cases parity <;> rfl

/-- The frame of byte 0 is low before its stop bit. -/
theorem slotLevel_zero (hq : q < frameSpan parity) : slotLevel parity 0 q = false := by
  have hq : q < if parity then 10 else 9 := hq
  cases parity
  case false =>
    have hq : q < 9 := hq
    interval_cases q <;> rfl
  case true =>
    have hq : q < 10 := hq
    interval_cases q <;> rfl

end Samples

section Runs
variable {s t u : State} {ins : Nat → Pins} {D d k : Nat}

/-- A run goes on from any of its states. -/
theorem runPins_add (hu : runPins ins s d = .next u) (k : Nat) :
    runPins ins s (d + k) = runPins (fun j => ins (d + j)) u k := by
  induction k with
  | zero => exact hu
  | succ k ih => rw [← Nat.add_assoc, runPins_succ, ih, runPins_succ]

/-- R132: the level on `rx`, from the cycle after acceptance on. -/
theorem Loopback.rxIn (h : Loopback s ins D) (hk : 1 ≤ k) (hu : runPins ins s k = .next u) :
    (u.withPins (ins k)).rxIn = lineBit s.cfg.rxParity (ins 0).txBuff D k := by
  have hD := h.le
  obtain ⟨t, ht, hq, -⟩ := txFrameTimeline s ins D k h.inv h.tx_wait h.req (by omega) (fun j => (h.pins j).1)
    (fun j hj => h.quiet j (by omega)) hk
  cases hu.symm.trans ht
  rw [State.rxIn, withPins_pins, (h.pins k).2]
  exact hq.trans (by rw [h.parity])

/-- The start bit lasts D cycles. -/
theorem Loopback.rxIn_start (h : Loopback s ins D) (hk : 1 ≤ k) (hkD : k ≤ D) (hu : runPins ins s k = .next u) :
    (u.withPins (ins k)).rxIn = false := by
  rw [h.rxIn hk hu, lineBit, if_pos hkD]

/-- In the cycle of the acceptance `tx` is still high, and the receiver stays in WAIT. -/
theorem Loopback.first_cycle (h : Loopback s ins D) (hu : runPins ins s 1 = .next u) :
    u.rx = { s.rx with rdyQ := false, cnt := u.rx.cnt } := by
  obtain ⟨v, hv, hc⟩ := andThen_eq_next.mp hu
  cases hv
  have hline : (s.withPins (ins 0)).rxIn = true := by
    rw [State.rxIn, withPins_pins, (h.pins 0).2]
    exact h.tx_high
  have hno_edge : ¬ startEdge (s.withPins (ins 0)) := fun he => Bool.false_ne_true (he.1.symm.trans hline)
  rw [cycle_rx_waitIdle hc h.rx_wait hno_edge]
  rfl

/-- A start refused in the next cycle for want of a count finds `rx_cnt` at 1 in the cycle after, the target being 2 or more. -/
theorem Loopback.second_cycle (h : Loopback s ins D) (hu : runPins ins s 1 = .next u)
    (hno_edge : ¬ startEdge (u.withPins (ins 1))) (ht : runPins ins s 2 = .next t) :
    t.rx = { s.rx with rdyQ := false, cnt := 1 } := by
  have hD := h.le
  have hfirst := h.first_cycle hu
  rw [runPins_succ, hu, andThen_next] at ht
  have hwait : u.rx.state = .wait := by rw [hfirst]; exact h.rx_wait
  have hcnt : (u.withPins (ins 1)).cnt .rx = 0 := by
    by_contra hne
    exact hno_edge ⟨h.rxIn_start le_rfl (by omega) hu, .inl hne⟩
  have hT : (u.withPins (ins 1)).target .rx = D / 16 := by rw [target_rx, withPins_pins, (h.pins 1).1]
  have hwf : (u.withPins (ins 1)).cfg.wf = true := by rw [withPins_cfg, runPins_cfg hu, h.inv.cfg_wf]
  have hlt := target_lt_two_pow hwf .rx
  have hr : (u.withPins (ins 1)).restart .rx = false := by
    rw [← Bool.not_eq_true, restart_rx_iff, edge_iff]
    exact fun hr => hno_edge hr.2
  rw [cycle_rx_waitIdle ht hwait hno_edge, nextCnt_of_target hr (by omega), hcnt, if_neg (by omega),
    incCnt_of_lt (by omega), withPins_rx, hfirst]

/-- The start bit is detected at once, or one cycle later when the qualifier finds `rx_cnt` at 0. -/
theorem Loopback.detection (h : Loopback s ins D) :
    ∃ d u, (d = 1 ∨ d = 2) ∧ runPins ins s d = .next u ∧ (u.withPins (ins d)).detect = true ∧ u.rx.state = .wait ∧
      u.rx.errorQ = s.rx.errorQ ∧ ∀ m v, 1 ≤ m → m ≤ d → runPins ins s m = .next v → v.rx.rdyQ = false := by
  have hD := h.le
  have hdetect {v : State} {p : Pins} (hwait : v.rx.state = .wait) (he : startEdge (v.withPins p)) :
      (v.withPins p).detect = true := (restart_rx_iff _).mpr ⟨hwait, (edge_iff _).mpr he⟩
  obtain ⟨u, hu⟩ := exists_runPins h.inv ins 1
  have hfirst := h.first_cycle hu
  by_cases he : startEdge (u.withPins (ins 1))
  · have hwait : u.rx.state = .wait := by rw [hfirst]; exact h.rx_wait
    refine ⟨1, u, .inl rfl, hu, hdetect hwait he, hwait, by rw [hfirst], fun m v hm hle hv => ?_⟩
    obtain rfl : m = 1 := by omega
    rw [h.first_cycle hv]
  · obtain ⟨w, hw⟩ := exists_runPins h.inv ins 2
    have hsecond := h.second_cycle hu he hw
    have hwait : w.rx.state = .wait := by rw [hsecond]; exact h.rx_wait
    have hcnt : (w.withPins (ins 2)).rx.cnt ≠ 0 := by
      rw [withPins_rx, hsecond]
      exact Nat.one_ne_zero
    have he' : startEdge (w.withPins (ins 2)) := ⟨h.rxIn_start (by omega) (by omega) hw, .inl hcnt⟩
    refine ⟨2, w, .inr rfl, hw, hdetect hwait he', hwait, by rw [hsecond], fun m v hm hle hv => ?_⟩
    obtain rfl | rfl : m = 1 ∨ m = 2 := by omega
    · rw [h.first_cycle hv]
    · rw [h.second_cycle hu he hv]

/-- From its detection on, the frame is a reception from the line of R132. -/
theorem Loopback.reception (h : Loopback s ins D) (hd : 1 ≤ d) (hu : runPins ins s d = .next u)
    (hwait : u.rx.state = .wait) (hdetect : (u.withPins (ins d)).detect = true) :
    Reception u (fun k => ins (d + k)) (frameLine s.cfg.rxParity (ins 0).txBuff D d) (D / 16) where
  inv := runPins_inv h.inv hu
  wait := hwait
  target k := by rw [(h.pins (d + k)).1]
  two_le := by have := h.le; omega
  line k v hv := h.rxIn (by omega) ((runPins_add hu k).trans hv)
  detect := hdetect

/-- The pulse of a looped frame that is detected in cycle d and whose start bit is voted 0. -/
theorem Loopback.pulse (h : Loopback s ins D) (hd : 1 ≤ d) (hu : runPins ins s d = .next u) (hwait : u.rx.state = .wait)
    (hdetect : (u.withPins (ins d)).detect = true)
    (hstart : sampledBit (frameLine s.cfg.rxParity (ins 0).txBuff D d) (D / 16) 0 = false) :
    let bit := sampledBit (frameLine s.cfg.rxParity (ins 0).txBuff D d) (D / 16)
    let byte := sampledByte (frameLine s.cfg.rxParity (ins 0).txBuff D d) (D / 16)
    (∃ t, runPins ins s (d + (stopVote s.cfg.rxParity (D / 16) + 1)) = .next t ∧ t.rx.rdyQ = true ∧ t.rx.buffQ = byte ∧
      t.rx.errorQ =
        if s.cfg.rxParity then !bit (frameSpan s.cfg.rxParity) || (xor8 byte ^^ bit 9)
        else !bit (frameSpan s.cfg.rxParity) || u.rx.errorQ) ∧
      ∀ m v, d < m → m ≤ d + stopVote s.cfg.rxParity (D / 16) → runPins ins s m = .next v → v.rx.rdyQ = false := by
  obtain ⟨hinv, hwait, hT, hR, hline, hdetect⟩ := h.reception hd hu hwait hdetect
  obtain ⟨-, ⟨t, ht, -, hrdy, hbuff, herr⟩, hbefore⟩ := receptionTimeline _ _ _ _ hinv hwait hT hR hline hdetect hstart
  rw [runPins_cfg hu] at ht herr hbefore
  refine ⟨⟨t, (runPins_add hu _).trans ht, hrdy, hbuff, ?_⟩, fun m v hm hle hv => ?_⟩
  · rw [herr]
    cases s.cfg.rxParity <;> rfl
  · obtain ⟨k, rfl⟩ : ∃ k, m = d + k := ⟨m - d, by omega⟩
    exact hbefore k v (by omega) (by omega) ((runPins_add hu k).symm.trans hv)

end Runs

/-- Settles O48: no sample that a vote turns on has left its bit. -/
theorem loopbackRoundTrip : Obligations.LoopbackRoundTrip := by
  intro s ins D hinv hparity htx hq hrx herr hpins hreq hquiet hD hbound
  have h : Loopback s ins D := ⟨hinv, hparity, htx, hq, hrx, hpins, hreq, hquiet, hD⟩
  obtain ⟨d, u, hd, hu, hdetect, hwait, hkept, hquietRdy⟩ := h.detection
  have hbit (q : Nat) (hle : q ≤ frameSpan s.cfg.rxParity) :
      sampledBit (frameLine s.cfg.rxParity (ins 0).txBuff D d) (D / 16) q = slotLevel s.cfg.rxParity (ins 0).txBuff q :=
    sampledBit_within_bound hd hD ((Nat.mul_le_mul_right _ hle).trans hbound)
  have h9 : 9 ≤ frameSpan s.cfg.rxParity := by cases s.cfg.rxParity <;> decide
  have hbyte : sampledByte (frameLine s.cfg.rxParity (ins 0).txBuff D d) (D / 16) = (ins 0).txBuff :=
    BitVec.eq_of_getLsbD_eq fun j hj => by rw [sampledByte_getLsbD _ _ hj, hbit _ (by omega), slotLevel_data hj]
  obtain ⟨⟨t, ht, hrdy, hbuff, herror⟩, hbefore⟩ := h.pulse (by omega) hu hwait hdetect (hbit 0 (Nat.zero_le _))
  refine ⟨_, t, by omega, ht, hrdy, hbuff.trans hbyte, ?_, fun m v hm hlt hv => ?_⟩
  · rw [herror, hbit _ le_rfl, slotLevel_stop, hbyte, hbit 9 h9]
    cases hp : s.cfg.rxParity with
    | true => simp [slotLevel_parity]
    | false => simpa [hkept] using herr hp
  · rcases Nat.lt_or_ge d m with hdm | hmd
    · exact hbefore m v hdm (by omega) hv
    · exact hquietRdy m v hm hmd hv

/-- Settles O49: two samples of the stop bit fall into bits of the byte 0 or its parity bit, and are low. -/
theorem loopbackFailsPastTheBound : Obligations.LoopbackFailsPastTheBound := by
  intro s ins D hinv hparity htx hq hrx hpins hreq hzero hquiet hD hbound hdetect
  have h : Loopback s ins D := ⟨hinv, hparity, htx, hq, hrx, hpins, hreq, hquiet, hD⟩
  obtain ⟨u, hu⟩ := exists_runPins hinv ins 1
  have hwait : u.rx.state = .wait := by rw [h.first_cycle hu]; exact hrx
  have hstart : sampledBit (frameLine s.cfg.rxParity (ins 0).txBuff D 1) (D / 16) 0 = false :=
    sampledBit_within_bound (q := 0) (.inl rfl) hD (by omega)
  have hstop : sampledBit (frameLine s.cfg.rxParity (ins 0).txBuff D 1) (D / 16) (frameSpan s.cfg.rxParity) = false :=
    sampledBit_past_bound hD hbound fun p hp => by rw [hzero]; exact slotLevel_zero hp
  obtain ⟨⟨t, ht, hrdy, -, herror⟩, -⟩ := h.pulse le_rfl hu hwait (hdetect u hu) hstart
  refine ⟨t, by rw [← ht]; congr 1; omega, hrdy, ?_⟩
  rw [herror, hstop]
  cases s.cfg.rxParity <;> rfl

end Sys2Proof.Machine
end

section
/-! A cycle against the transition function of 43_uartcore.md R191. `txOutcome` and `rxOutcome` tabulate what the table-driven
rules make of each engine, a fault included; a cycle joins the two (`cycle_eq_joinEngines`), and so does R191's text, whose
branches are the rules' writes one by one (`transition_eq_joinEngines`). -/

namespace Sys2Proof.Machine

open Claims

section Engines

/-- R190, log 11: the engines' registers of the next cycle, or the transmitter's fault, or else the receiver's. -/
def State.joinEngines (s : State) (tx : Except Fault TxRegs) (rx : Except Fault RxRegs) : Result :=
  match tx with
  | .error r => .fault r
  | .ok tx1 =>
    match rx with
    | .error r => .fault r
    | .ok rx1 => .next { s with tx := tx1, rx := rx1, drawCtr := s.drawCtr + 1 }

/-- What a cycle makes of the transmitter: its rule's writes, or R130's fault. -/
def State.txOutcome (s : State) : Except Fault TxRegs :=
  if s.tx.state.legal s.cfg.txParity then
    .ok { txAfter s.cfg s.pins.txBuff s.tx s.txChoice with cnt := s.nextCnt .tx }
  else .error .txParityStateWithoutParity

/-- What a cycle makes of the receiver: its rule's writes, or R163's fault. -/
def State.rxOutcome (s : State) : Except Fault RxRegs :=
  if s.rx.state.legal s.cfg.rxParity then .ok { rxAfter s.cfg s.rxIn s.rx s.rxChoice with cnt := s.nextCnt .rx }
  else .error .rxIllegalState

variable {s : State}

/-- R85: the transmitter's one illegal state. -/
theorem TxState.legal_eq_false {st : TxState} {parity : Bool} : st.legal parity = false ↔ st = .parity ∧ parity = false := by
  cases st <;> simp [TxState.legal]

/-- R163: in an illegal state the receiver's rule faults, whichever it is. -/
theorem exec_rxChoice_fault (h : s.rx.state.legal s.cfg.rxParity = false) : exec s.rxChoice s = .fault .rxIllegalState := by
  cases hst : s.rx.state with
  | parity => exact exec_rxChoice_parity_fault hst (by rwa [hst] at h)
  | reserved001 | reserved010 | reserved011 => rw [State.rxChoice, hst]; rfl
  | wait | start | data | stop => simp [hst, RxState.legal] at h

/-- Everything a cycle can answer, faults included. -/
theorem cycle_eq_joinEngines (s : State) : cycle s = s.joinEngines s.txOutcome s.rxOutcome := by
  unfold State.txOutcome State.rxOutcome
  cases htx : s.tx.state.legal s.cfg.txParity with
  | false =>
    obtain ⟨hst, hp⟩ := TxState.legal_eq_false.mp htx
    rw [cycle_parity_fault hst hp]
    rfl
  | true =>
    cases hrx : s.rx.state.legal s.cfg.rxParity with
    | false =>
      rw [cycle_rx_fault htx (exec_rxChoice_fault hrx)]
      rfl
    | true =>
      obtain ⟨t, ht⟩ := exists_cycle_of_legal (legal_iff.mpr ⟨htx, hrx⟩)
      obtain ⟨hcfg, hpins, hscript, hctr⟩ := cycle_keeps ht
      rw [ht, if_pos rfl, if_pos rfl, ← cycle_tx ht, ← cycle_rx ht, State.joinEngines]
      simp only [← hcfg, ← hpins, ← hscript, ← hctr]

/-- R155 to R157 as R191 orders them: no tick, a sample, a count, and the state's own vote at 15. -/
theorem rxOutcome_of_ovsChoice {atVote : Instr} (hl : s.rx.state.legal s.cfg.rxParity = true)
    (hi : s.rxChoice = s.ovsChoice atVote) :
    s.rxOutcome =
      .ok (if s.tick .rx = false then { s.rx with cnt := s.nextCnt .rx }
        else if s.rx.os = 7 ∨ s.rx.os = 8 ∨ s.rx.os = 9 then
          { s.rx with
            cnt := s.nextCnt .rx, win := windowWith s.rx.win (s.rx.os.toNat - 7) s.rxIn, os := s.rx.os + 1 }
        else if s.rx.os ≠ 15 then { s.rx with cnt := s.nextCnt .rx, os := s.rx.os + 1 }
        else { rxAfter s.cfg s.rxIn s.rx atVote with cnt := s.nextCnt .rx }) := by
  have hsamp : s.rx.os = 7 ∨ s.rx.os = 8 ∨ s.rx.os = 9 ↔ s.samp = true := by simp [State.samp, or_assoc]
  have hlast : s.rx.os = 15 ↔ s.last = true := by simp [State.last]
  rw [State.rxOutcome, if_pos hl, hi, State.ovsChoice]
  simp only [hsamp, ne_eq, hlast]
  cases s.tick .rx
  case false => rfl
  cases hp : s.samp
  case false => cases s.last <;> rfl
  case true =>
    obtain ⟨hge, hle⟩ := (samp_iff s).mp hp
    rw [← winSample_eq_windowWith _ _ hge hle]
    rfl

end Engines

/-- R191's text: pass 1 computes the model's combinational values, and each branch of pass 2 is the writes of the rule whose
condition it tests. -/
theorem transition_eq_joinEngines (s : State) : transition s = s.joinEngines s.txOutcome s.rxOutcome := by
  unfold transition
  extract_lets Ttx Trx rx accept tickTx qual edge detect tickRx vote _ tx0 _ rx0 tx' atVote sampling rx'
  have hedge : edge = s.edge := by simp only [edge, State.edge, beq_false]; rfl
  have htickRx : tickRx = s.tick .rx := by simp only [tickRx, Trx, ← target_rx]; rfl
  have htx : tx' = s.txOutcome := by
    have htickTx : tickTx = s.tick .tx := rfl
    have htx0 : tx0 = { s.tx with cnt := s.nextCnt .tx } := rfl
    simp only [tx', htickTx, htx0, State.txOutcome, State.txChoice]
    cases hst : s.tx.state with
    | wait => cases s.pins.txReq <;> simp [txAfter, TxState.legal, hst]
    | data => cases s.tx.bitcnt.getLsbD 3 <;> cases s.tick .tx <;> simp [txAfter, TxState.legal, hst, shiftOut]
    | parity => cases s.cfg.txParity <;> cases s.tick .tx <;> simp [txAfter, TxState.legal, hst]
    | stop => cases s.tick .tx <;> simp [txAfter, TxState.legal, hst]
  have hrx : rx' = s.rxOutcome := by
    have hline : rx = s.rxIn := rfl
    have hvote : vote = winVote s.rx.win := rfl
    have hrx0 : rx0 = { s.rx with cnt := s.nextCnt .rx } := by simp only [rx0, detect, hedge, htickRx]; rfl
    simp only [rx', sampling, atVote, hline, hedge, htickRx, hvote, hrx0]
    cases hst : s.rx.state with
    | wait =>
      cases he : s.edge <;>
        simp [State.rxOutcome, State.rxChoice, rxAfter, RxState.legal, hst, he, insertBit_eq_windowWith]
    | start =>
      rw [rxOutcome_of_ovsChoice (by rw [hst]; rfl) (by rw [State.rxChoice, hst]), State.vote]
      cases winVote s.rx.win <;> simp [rxAfter, hst]
    | data =>
      cases hb : s.rx.bitcnt.getLsbD 3 with
      | true => simp [State.rxOutcome, State.rxChoice, rxAfter, RxState.legal, hst, hb]
      | false =>
        rw [rxOutcome_of_ovsChoice (by rw [hst]; rfl) (by simp only [State.rxChoice, hst, hb]; rfl)]
        simp [rxAfter, hst, shiftIn_eq_accWith]
    | parity =>
      cases hp : s.cfg.rxParity with
      | true =>
        rw [rxOutcome_of_ovsChoice (by rw [hst]; exact hp) (by rw [State.rxChoice, hst])]
        simp [rxAfter, hst, parityError]
      | false => simp [State.rxOutcome, RxState.legal, hst, hp]
    | stop =>
      rw [rxOutcome_of_ovsChoice (by rw [hst]; rfl) (by rw [State.rxChoice, hst])]
      simp [rxAfter, hst, stopError]
    | reserved001 | reserved010 | reserved011 => simp [State.rxOutcome, RxState.legal, hst]
  rw [← htx, ← hrx]
  rfl

/-- Settles O34: both sides join the same outcomes of the two engines. -/
theorem stepIsTheTransitionFunction : Obligations.StepIsTheTransitionFunction := fun s hs =>
  calc
    step s = cycle s := step_eq_cycle hs
    _ = s.joinEngines s.txOutcome s.rxOutcome := cycle_eq_joinEngines s
    _ = transition s := (transition_eq_joinEngines s).symm

end Sys2Proof.Machine
end

section
/-! Quiescence (43_uartcore.md R199): on an idle line, without a request, both engines run their WAIT idle rules. -/

namespace Sys2Proof.Machine

open Claims

section Quiescence
variable {s t : State}

theorem quiescent_iff :
    s.quiescent = true ↔ s.tx.state = .wait ∧ s.rx.state = .wait ∧ s.pins.txReq = false ∧ s.rxIn = true := by
  simp [State.quiescent, and_assoc]

/-- R121: in WAIT without a request the idle outputs go up and only the counter moves besides. -/
theorem cycle_tx_waitIdle (hc : cycle s = .next t) (hst : s.tx.state = .wait) (hreq : s.pins.txReq = false) :
    t.tx = { s.tx with q := true, rdyQ := true, cnt := s.nextCnt .tx } := by
  rw [nextCnt_eq_counterAfter]
  exact cycle_tx_of_condition (i := .txWaitIdle) hc ⟨hst, hreq⟩

/-- R54: a high line stays high while the pins hold their levels and `tx` is high. -/
theorem rxIn_of_tx_high (hline : s.rxIn = true) (hpins : t.pins = s.pins) (hq : t.tx.q = true) : t.rxIn = true := by
  unfold State.rxIn at hline ⊢
  rw [hpins]
  cases hl : s.pins.line with
  | loop => exact hq
  | ext level => simpa [hl] using hline

end Quiescence

/-- Settles O54. -/
theorem quiescenceIsStable : Obligations.QuiescenceIsStable := by
  intro s hs hquiet
  obtain ⟨htx, hrx, hreq, hline⟩ := quiescent_iff.mp hquiet
  have hedge : ¬ startEdge s := by simp [startEdge, hline]
  obtain ⟨t, ht, hc⟩ := exists_step_of_legal hs (by rw [htx]; rfl) (by rw [hrx]; rfl)
  obtain ⟨-, hpins, -, -⟩ := cycle_keeps hc
  have httx := cycle_tx_waitIdle hc htx hreq
  have htrx := cycle_rx_waitIdle hc hrx hedge
  have hq : t.tx.q = true := by rw [httx]
  have hquiet' : t.quiescent = true :=
    quiescent_iff.mpr ⟨by rw [httx]; exact htx, by rw [htrx]; exact hrx, by rw [hpins]; exact hreq,
      rxIn_of_tx_high hline hpins hq⟩
  refine ⟨_, t, fetch_eq s, txChoice_of_txCondition ⟨htx, hreq⟩, rxChoice_of_rxCondition ⟨hrx, hedge⟩, ht, hquiet', hq,
    by rw [httx], by rw [htrx], fun hsq hsRdy hsRxRdy => ⟨?_, ?_⟩⟩
  · simp [httx, hsq, hsRdy]
  · simp [htrx, hsRxRdy]

end Sys2Proof.Machine
end

section
/-! The exceptions of 60_exceptions.md: no run ever stops (R210), and without parity the error flag gathers the framing faults of
a run (R214). -/

namespace Sys2Proof.Machine

open Claims

/-- Settles O37: the invariant is kept, and a state that meets it completes its cycle on any pins. -/
theorem runsNeverStop : Obligations.RunsNeverStop := by
  intro s ins n hinv
  obtain ⟨t, ht⟩ := exists_runPins hinv ins n
  exact ⟨t, ht, runPins_inv hinv ht⟩

section FramingErrors
variable {s t u : State} {ins : Nat → Pins} {n : Nat}

/-- R162: the stop vote ORs its framing fault into the flag. -/
theorem cycle_errorQ_of_stopEnd (h : cycle s = .next t) (hi : rxCondition s .rxStopEnd) :
    t.rx.errorQ = stopError (winVote s.rx.win) s.rx.errorQ := by
  rw [cycle_rx_of_condition h hi]
  rfl

/-- Without parity the stop vote alone writes the flag. -/
theorem cycle_errorQ_unchanged (h : cycle s = .next t) (hp : s.cfg.rxParity = false) (hi : ¬ rxCondition s .rxStopEnd) :
    t.rx.errorQ = s.rx.errorQ := by
  by_contra hne
  have hcheck : rxCondition s .rxParityCheck := (cycle_errorQ_written h hne).resolve_right hi
  have hparity : s.cfg.rxParity = true := rxParity_of_cycle_parityCheck h (rxChoice_of_rxCondition hcheck)
  exact Bool.false_ne_true (hp.symm.trans hparity)

/-- R214 for one cycle, without parity. -/
theorem cycle_errorQ_iff (h : cycle s = .next t) (hp : s.cfg.rxParity = false) :
    t.rx.errorQ = true ↔ s.rx.errorQ = true ∨ rxCondition s .rxStopEnd ∧ winVote s.rx.win = false := by
  by_cases hi : rxCondition s .rxStopEnd
  · simp [cycle_errorQ_of_stopEnd h hi, stopError, hi, or_comm]
  · simp [cycle_errorQ_unchanged h hp hi, hi]

/-- An event of a run's first n + 1 cycles is one of its first n, or of the cycle that leaves the state u after n. -/
theorem exists_cycle_lt_succ_iff {E : Nat → State → Prop} (hu : runPins ins s n = .next u) :
    (∃ c v, c < n + 1 ∧ runPins ins s c = .next v ∧ E c v) ↔
      (∃ c v, c < n ∧ runPins ins s c = .next v ∧ E c v) ∨ E n u := by
  constructor
  · rintro ⟨c, v, hc, hv, he⟩
    obtain hlt | rfl := Nat.lt_succ_iff_lt_or_eq.mp hc
    · exact .inl ⟨c, v, hlt, hv, he⟩
    · cases hu.symm.trans hv
      exact .inr he
  · rintro (⟨c, v, hc, hv, he⟩ | he)
    · exact ⟨c, v, Nat.lt_succ_of_lt hc, hv, he⟩
    · exact ⟨n, u, Nat.lt_succ_self n, hu, he⟩

end FramingErrors

/-- Settles O52, by induction on the run: each cycle adds its own framing fault. -/
theorem framingErrorsAccumulateWithoutParity : Obligations.FramingErrorsAccumulateWithoutParity := by
  intro s ins n t _ hp ht
  induction n generalizing t with
  | zero =>
    cases ht
    simp
  | succ n ih =>
    obtain ⟨u, hu, hc⟩ := andThen_eq_next.mp ht
    have hpu : (u.withPins (ins n)).cfg.rxParity = false := by rw [withPins_cfg, runPins_cfg hu, hp]
    rw [cycle_errorQ_iff hc hpu, exists_cycle_lt_succ_iff hu, ← or_assoc, ← ih u hu]
    rfl

end Sys2Proof.Machine
end

section
/-! The reset state of 70_reset_and_hazards.md R240: the registers with a fixed value, and the draws, each of which is any value
of its register. -/

namespace Sys2Proof.Machine

open Claims

section ResetRegisters
variable (c : Config) (d : ResetDraws)

/-- A draw that fits the transmitter's counter is its reset value. -/
theorem resetWith_tx_cnt_of_lt (h : d.txCnt < 2 ^ c.txCntW) : (State.resetWith c d).tx.cnt = d.txCnt :=
  Nat.mod_eq_of_lt h

/-- A draw that fits the receiver's counter is its reset value. -/
theorem resetWith_rx_cnt_of_lt (h : d.rxCnt < 2 ^ c.rxCntW) : (State.resetWith c d).rx.cnt = d.rxCnt :=
  Nat.mod_eq_of_lt h

end ResetRegisters

/-- Settles O39: the fixed values are those of R240 whatever the draws, and the draws that hold the wanted values give them, the
counters' because they fit. -/
theorem resetValues : Obligations.ResetValues := by
  constructor
  · intro c d
    exact ⟨resetWith_tx_state c d, rfl, rfl, rfl, resetWith_rx_state c d, rfl, rfl, rfl, rfl⟩
  · intro c txCnt rxCnt shift acc buff par win htx hrx
    exact ⟨⟨txCnt, shift, par, rxCnt, win, acc, buff⟩, resetWith_tx_cnt_of_lt c _ htx, rfl, rfl,
      resetWith_rx_cnt_of_lt c _ hrx, rfl, rfl, rfl⟩

end Sys2Proof.Machine
end
